-- ==== Sys2Proof/Word.lean ====
section
/-! DEFINITION. The bit-vector types of the block (spec/00_scope.md R4, R6; spec/10_state.md).  Only what
the spec numbers bit by bit is a bit vector: command bytes, register fields, the panning mask and the
noise shift register.  Counters are integers (92_eei_decisions.md D5), samples are natural numbers. -/

namespace Sys2Proof

/-- One command or panning byte; bit 0 is the least significant bit (R4, R60). -/
abbrev Byte := BitVec 8

/-- A 4-bit volume index, `VOL_W` (R11). -/
abbrev VolIndex := BitVec 4

/-- A 10-bit tone period, `TONE_W` (R12). -/
abbrev Period := BitVec 10

/-- `LFSR_W`, the width of the noise shift register (R17; 90_conflicts.md C1, decision D1). -/
abbrev lfsrW : Nat := 15

/-- The noise shift register's value; bit 0 is the output end, bit `lfsrW - 1` the top bit (R17). -/
abbrev Lfsr := BitVec lfsrW

end Sys2Proof
end

