-- ==== Sys2Proof/Machine/Channels.lean ====
section
/-! DEFINITION. The four channels, the two output sides, and the register files indexed by them
(spec/10_state.md R10; spec/00_scope.md R5: the arrays are the block's only register files). -/

namespace Sys2Proof.Machine

/-- A tone channel: index 0, 1, 2 (R10). -/
inductive ToneChannel where
  | a | b | c
deriving DecidableEq, Repr, Inhabited

/-- A channel: the three tone channels and noise, index 3 (R10). -/
inductive Channel where
  | a | b | c | noise
deriving DecidableEq, Repr, Inhabited

/-- An output side of the panning multiplexer (R23). -/
inductive Side where
  | left | right
deriving DecidableEq, Repr, Inhabited

/-- A register per tone channel: `x[0..2]` (R5). -/
structure PerTone (α : Type) where
  a : α
  b : α
  c : α
deriving DecidableEq, Repr, Inhabited

/-- A register per channel: `x[0..3]` (R5). -/
structure PerChannel (α : Type) where
  a : α
  b : α
  c : α
  noise : α
deriving DecidableEq, Repr, Inhabited

/-- `x[k]` (R5). -/
def PerTone.get {α : Type} (x : PerTone α) : ToneChannel → α
  | .a => x.a
  | .b => x.b
  | .c => x.c

/-- `x[k] <- v` (R5). -/
def PerTone.set {α : Type} (x : PerTone α) (k : ToneChannel) (v : α) : PerTone α :=
  match k with
  | .a => { x with a := v }
  | .b => { x with b := v }
  | .c => { x with c := v }

/-- `x[k]` (R5). -/
def PerChannel.get {α : Type} (x : PerChannel α) : Channel → α
  | .a => x.a
  | .b => x.b
  | .c => x.c
  | .noise => x.noise

/-- `x[k] <- v` (R5). -/
def PerChannel.set {α : Type} (x : PerChannel α) (k : Channel) (v : α) : PerChannel α :=
  match k with
  | .a => { x with a := v }
  | .b => { x with b := v }
  | .c => { x with c := v }
  | .noise => { x with noise := v }

/-- The elements in index order, as an image lists them. -/
def PerTone.toList {α : Type} (x : PerTone α) : List α := [x.a, x.b, x.c]

/-- The elements in index order, as an image lists them. -/
def PerChannel.toList {α : Type} (x : PerChannel α) : List α := [x.a, x.b, x.c, x.noise]

/-- An array of three elements read from a list; `none` for an array of the wrong length (R146). -/
def PerTone.ofList? {α : Type} : List α → Option (PerTone α)
  | [x, y, z] => some ⟨x, y, z⟩
  | _ => none

/-- An array of four elements read from a list; `none` for an array of the wrong length (R146). -/
def PerChannel.ofList? {α : Type} : List α → Option (PerChannel α)
  | [x, y, z, w] => some ⟨x, y, z, w⟩
  | _ => none

/-- Apply a function to every element. -/
def PerTone.map {α β : Type} (f : α → β) (x : PerTone α) : PerTone β := ⟨f x.a, f x.b, f x.c⟩

/-- Apply a function to every element. -/
def PerChannel.map {α β : Type} (f : α → β) (x : PerChannel α) : PerChannel β :=
  ⟨f x.a, f x.b, f x.c, f x.noise⟩

/-- The channel with the 2-bit index `k` (R10). -/
def Channel.ofSelect (k : BitVec 2) : Channel :=
  if k = 0 then .a else if k = 1 then .b else if k = 2 then .c else .noise

/-- The tone channel with the 2-bit index `k`; index 3 is the noise channel and is none (R10). -/
def ToneChannel.ofSelect? (k : BitVec 2) : Option ToneChannel :=
  if k = 0 then some .a else if k = 1 then some .b else if k = 2 then some .c else none

/-- The 2-bit index of a channel (R10). -/
def Channel.index : Channel → BitVec 2
  | .a => 0
  | .b => 1
  | .c => 2
  | .noise => 3

/-- The 2-bit index of a tone channel (R10). -/
def ToneChannel.index : ToneChannel → BitVec 2
  | .a => 0
  | .b => 1
  | .c => 2

/-- A tone channel among the four channels (R10). -/
def ToneChannel.toChannel : ToneChannel → Channel
  | .a => .a
  | .b => .b
  | .c => .c

end Sys2Proof.Machine
end

