-- ==== Sys2Proof/Machine/Tables.lean ====
section
/-! DEFINITION. The constants of the block that the spec gives a value (spec/00_scope.md section 4;
spec/10_state.md R18, R26).  They are constants, not state: no event writes them and no image holds them.
What the spec leaves open (`MIX_SCALE`, `PORT_MAP`) stands in Config.lean without a value. -/

namespace Sys2Proof.Machine

/-- `VOL_TABLE`: index 0 is the loudest, index 15 is silence (R113). -/
def volTable : List Nat :=
  [255, 203, 161, 128, 102, 86, 64, 51, 40, 32, 26, 20, 16, 13, 10, 0]

/-- `VOL_TABLE[v]` (R113). -/
def volEntry (v : VolIndex) : Nat := volTable.getD v.toNat 0

/-- `DIV_RATIO`: host pulses per internal tick (R101). -/
def divRatio : Nat := 16

/-- `NOISE_DIV[0..2]`: the fixed noise divisors (R108). -/
def noiseDiv : List Nat := [16, 32, 64]

/-- `NOISE_SCALE`: the noise reload value is doubled (R108). -/
def noiseScale : Nat := 2

/-- `NOISE_SEED = 1 << (LFSR_W-1)`: a single set bit at the top bit (R18, decision D2; log entry 2). -/
def noiseSeed : Lfsr := 1 <<< (lfsrW - 1)

/-- The value of `noiseMode` that selects LFSR (XOR) feedback (R107, decision D3; log entry 3). -/
def lfsrModeValue : Bool := true

/-- What a register read returns, for every register and in every state (R133). -/
def readSentinel : Byte := 0xFF

/-- The panning mask's bit for each route, stated once, as data (R23, R131; bit 7 by 90_conflicts.md C4). -/
def panBit : Side → Channel → Nat
  | .left, .noise => 7
  | .left, .c => 6
  | .left, .b => 5
  | .left, .a => 4
  | .right, .noise => 3
  | .right, .c => 2
  | .right, .b => 1
  | .right, .a => 0

end Sys2Proof.Machine
end

