-- ==== Sys2Proof/Machine/Chip.lean ====
section
/-! DEFINITION. `ChipState`: the fifteen state elements of spec/10_state.md R11 to R25, and no others
(R33), with their values after reset (spec/70_reset_and_hazards.md R161). -/

namespace Sys2Proof.Machine

/-- The record the source calls ChipState (spec/10_state.md). -/
structure ChipState where
  /-- Volume index of each channel, 4 bits; 15 is silent (R11). -/
  volume : PerChannel VolIndex
  /-- Tone period of each tone channel, 10 bits (R12). -/
  toneReload : PerTone Period
  /-- The latched channel, 2 bits (R13). -/
  channelSelect : BitVec 2
  /-- The latched mode: true routes data writes to the volume register (R14). -/
  volumeOrTone : Bool
  /-- Noise feedback mode, bit 2 of the noise-control register (R15). -/
  noiseMode : Bool
  /-- Noise rate selector, bits 1-0 of the noise-control register (R16). -/
  noiseRate : BitVec 2
  /-- The noise shift register (R17). -/
  noiseShiftRegister : Lfsr
  /-- The tone countdown counters, mathematical integers (R19). -/
  clock : PerTone Int
  /-- The noise countdown counter (R20). -/
  noiseClock : Int
  /-- The square-wave output level of each tone channel (R21). -/
  phase : PerTone Bool
  /-- The latched noise output bit (R22). -/
  noiseBit : Bool
  /-- The panning mask; its bits are routed by `panBit` (R23). -/
  panning : Byte
  /-- Host clock pulses since the last tick (R24). -/
  sampleClockDivider : Nat
  /-- The left output sample (R25). -/
  currentSampleLeft : Nat
  /-- The right output sample (R25). -/
  currentSampleRight : Nat
deriving DecidableEq, Repr, Inhabited

/-- The reset record (R161).  Only the shift register's seed is given by the source; every other value is
the spec's own decision D6 to D13 (log entry 4). -/
def ChipState.reset : ChipState where
  volume := ⟨15, 15, 15, 15⟩
  toneReload := ⟨0, 0, 0⟩
  channelSelect := 0
  volumeOrTone := false
  noiseMode := false
  noiseRate := 0
  noiseShiftRegister := noiseSeed
  clock := ⟨1, 1, 1⟩
  noiseClock := 32
  phase := ⟨false, false, false⟩
  noiseBit := false
  panning := 0xFF
  sampleClockDivider := 0
  currentSampleLeft := 0
  currentSampleRight := 0

end Sys2Proof.Machine
end

