-- ==== Sys2Proof/Machine/Image.lean ====
section
/-! DEFINITION. The image a `SAVE` returns and a `LOAD` takes (spec/60_exceptions.md R145, R146): the
abstract record of the fifteen element values.  An image comes from outside the block, so it can be
malformed (a value missing, an array of the wrong length, unbalanced section nesting) and its numbers
can lie outside their registers.  The storage layout (keys, order, text or binary) is out of scope
(spec/00_scope.md R3). -/

namespace Sys2Proof.Machine

/-- An image as the host presents it: every value may be missing, every array has a length of its own, and
numbers are unbounded integers. -/
structure Image where
  /-- The sections of the medium were opened and closed in balance (R146). -/
  balanced : Bool
  volume : Option (List Int)
  toneReload : Option (List Int)
  channelSelect : Option Int
  volumeOrTone : Option Bool
  noiseMode : Option Bool
  noiseRate : Option Int
  noiseShiftRegister : Option Int
  clock : Option (List Int)
  noiseClock : Option Int
  phase : Option (List Bool)
  noiseBit : Option Bool
  panning : Option Int
  sampleClockDivider : Option Int
  currentSampleLeft : Option Int
  currentSampleRight : Option Int
deriving DecidableEq, Repr, Inhabited

end Sys2Proof.Machine
end

