-- ==== Sys2Proof/Machine/Event.lean ====
section
/-! DEFINITION. The host interface: the events of spec/00_scope.md R7 as they arrive at the block's ports
(spec/20_memory.md R42), what the block returns for them, and the platform's address map
(spec/20_memory.md R44). -/

namespace Sys2Proof.Machine

/-- A host event: which port or line the host drives, with the data it presents (R7, R42, R72). -/
inductive HostEvent where
  /-- A byte at the write port. -/
  | write (b : Byte)
  /-- A byte at the panning port. -/
  | setpan (b : Byte)
  /-- A register read. -/
  | read
  /-- One host clock pulse. -/
  | advance
  /-- The power-on reset. -/
  | reset
  /-- A whole-state read. -/
  | save
  /-- A whole-state overwrite. -/
  | load (img : Image)
deriving DecidableEq, Repr, Inhabited

/-- What an event hands back to the host (R42): a read's byte, a save's image, or the failure of a load
(R141).  `WRITE` and `SETPAN` have no acknowledgment or return value. -/
inductive HostReply where
  | byte (b : Byte)
  | image (img : Image)
  | stateCorruption
deriving DecidableEq, Repr, Inhabited

/-- `PORT_MAP`: the host addresses of the write, panning and read ports (R44). -/
structure PortMap where
  writePort : Nat
  panPort : Nat
  readPort : Nat
deriving DecidableEq, Repr, Inhabited

/-- A platform bus access: a byte written to an address, or a read from one. -/
inductive BusAccess where
  | store (addr : Nat) (b : Byte)
  | fetch (addr : Nat)
deriving DecidableEq, Repr, Inhabited

/-- The event a bus access makes under a port map; an access to any other address is not the block's. -/
def PortMap.resolve (pm : PortMap) : BusAccess → Option HostEvent
  | .store addr b =>
    if addr = pm.writePort then some (.write b)
    else if addr = pm.panPort then some (.setpan b)
    else none
  | .fetch addr => if addr = pm.readPort then some .read else none

end Sys2Proof.Machine
end

