-- ==== Sys2Proof/Config.lean ====
section
/-! DEFINITION. What the spec leaves open, as constants without a value: nothing can be proved about them
but what their types say, so a statement that uses one holds whatever it is. -/

namespace Sys2Proof.Config

/-- The unconstrained part of `MIX_SCALE`. -/
opaque mixScalePred : Nat

/-- `MIX_SCALE`, the mixer's multiplier: an open positive integer (R114, R136, decision D4; log entry 5). -/
def mixScale : Nat := mixScalePred + 1

/-- `PORT_MAP`, the platform's host addresses: open (R44, decision D15; log entry 6). -/
opaque portMap : Machine.PortMap

/-- The elements after the `n`-th failed `LOAD`: any value (93_implementation_defined.md U7; log entry 7). -/
opaque freeChip : Nat → Machine.ChipState

end Sys2Proof.Config
end

