-- ==== Sys2Proof/Machine/Operands.lean ====
section
/-! DEFINITION. Operand forms: the fields of the two write-port formats (spec/30_encoding.md R61, R63),
their assembly into registers (R65 to R67), and the image operand of `LOAD` (spec/60_exceptions.md R145
to R148). -/

namespace Sys2Proof.Machine

/-! ### Fields of a command byte -/

/-- `b[7]`: a latch write when set (R60). -/
def isLatch (b : Byte) : Bool := b.getLsbD 7

/-- `cc = b[6:5]` (R61). -/
def fieldCc (b : Byte) : BitVec 2 := b.extractLsb' 5 2

/-- `t = b[4]`: set means volume mode (R61, R62). -/
def fieldT (b : Byte) : Bool := b.getLsbD 4

/-- `d = b[3:0]` (R61, R66). -/
def fieldD (b : Byte) : BitVec 4 := b.extractLsb' 0 4

/-- `h = b[5:0]` (R63, R65). -/
def fieldH (b : Byte) : BitVec 6 := b.extractLsb' 0 6

/-- `m = b[2]` (R67). -/
def fieldM (b : Byte) : Bool := b.getLsbD 2

/-- `r = b[1:0]` (R67). -/
def fieldR (b : Byte) : BitVec 2 := b.extractLsb' 0 2

/-- `p[9:4] : d`: the low four bits replaced (R65, R80). -/
def Period.withLow (p : Period) (d : BitVec 4) : Period := p.extractLsb' 4 6 ++ d

/-- `h : p[3:0]`: the high six bits replaced (R65, R93). -/
def Period.withHigh (p : Period) (h : BitVec 6) : Period := h ++ p.extractLsb' 0 4

/-! ### Images -/

/-- The fifteen values of an image that is not malformed, before any range check. -/
structure ImageValues where
  volume : PerChannel Int
  toneReload : PerTone Int
  channelSelect : Int
  volumeOrTone : Bool
  noiseMode : Bool
  noiseRate : Int
  noiseShiftRegister : Int
  clock : PerTone Int
  noiseClock : Int
  phase : PerTone Bool
  noiseBit : Bool
  panning : Int
  sampleClockDivider : Int
  currentSampleLeft : Int
  currentSampleRight : Int
deriving DecidableEq, Repr, Inhabited

/-- The values of an image; `none` for a malformed one: a value missing, an array of the wrong length, or
unbalanced nesting (R146). -/
def Image.values? (img : Image) : Option ImageValues :=
  if img.balanced then do
    let volume ← img.volume.bind PerChannel.ofList?
    let toneReload ← img.toneReload.bind PerTone.ofList?
    let channelSelect ← img.channelSelect
    let volumeOrTone ← img.volumeOrTone
    let noiseMode ← img.noiseMode
    let noiseRate ← img.noiseRate
    let noiseShiftRegister ← img.noiseShiftRegister
    let clock ← img.clock.bind PerTone.ofList?
    let noiseClock ← img.noiseClock
    let phase ← img.phase.bind PerTone.ofList?
    let noiseBit ← img.noiseBit
    let panning ← img.panning
    let sampleClockDivider ← img.sampleClockDivider
    let currentSampleLeft ← img.currentSampleLeft
    let currentSampleRight ← img.currentSampleRight
    some { volume, toneReload, channelSelect, volumeOrTone, noiseMode, noiseRate, noiseShiftRegister, clock,
           noiseClock, phase, noiseBit, panning, sampleClockDivider, currentSampleLeft, currentSampleRight }
  else none

/-- `lo <= x <= hi` on integers. -/
def between (lo hi x : Int) : Bool := decide (lo ≤ x) && decide (x ≤ hi)

/-- Every element satisfies a check. -/
def PerTone.all {α : Type} (f : α → Bool) (x : PerTone α) : Bool := f x.a && f x.b && f x.c

/-- Every element satisfies a check. -/
def PerChannel.all {α : Type} (f : α → Bool) (x : PerChannel α) : Bool :=
  f x.a && f x.b && f x.c && f x.noise

/-- The precondition of `LOAD` (R148): invariants I1 and I3 to I8 of R27, and every field inside its
register.  The shift register may be 0, which `LOAD` repairs (R147), but not wider than `LFSR_W`. -/
def ImageValues.inRange (v : ImageValues) : Bool :=
  v.volume.all (between 0 15) && v.toneReload.all (between 0 1023) && between 0 3 v.channelSelect &&
  between 0 3 v.noiseRate && between 0 (2 ^ lfsrW - 1) v.noiseShiftRegister && v.clock.all (between 1 1024) &&
  between 1 2048 v.noiseClock && between 0 255 v.panning && between 0 15 v.sampleClockDivider &&
  between 0 (1020 * Config.mixScale) v.currentSampleLeft &&
  between 0 (1020 * Config.mixScale) v.currentSampleRight

/-- The elements an image's values overwrite the state with (R146); exact for values in range. -/
def ImageValues.toChip (v : ImageValues) : ChipState where
  volume := v.volume.map (BitVec.ofInt 4)
  toneReload := v.toneReload.map (BitVec.ofInt 10)
  channelSelect := BitVec.ofInt 2 v.channelSelect
  volumeOrTone := v.volumeOrTone
  noiseMode := v.noiseMode
  noiseRate := BitVec.ofInt 2 v.noiseRate
  noiseShiftRegister := BitVec.ofInt lfsrW v.noiseShiftRegister
  clock := v.clock
  noiseClock := v.noiseClock
  phase := v.phase
  noiseBit := v.noiseBit
  panning := BitVec.ofInt 8 v.panning
  sampleClockDivider := v.sampleClockDivider.toNat
  currentSampleLeft := v.currentSampleLeft.toNat
  currentSampleRight := v.currentSampleRight.toNat

/-- The image `SAVE` returns: the value of every state element (R145). -/
def Image.ofChip (c : ChipState) : Image where
  balanced := true
  volume := some (c.volume.toList.map fun v => (v.toNat : Int))
  toneReload := some (c.toneReload.toList.map fun p => (p.toNat : Int))
  channelSelect := some c.channelSelect.toNat
  volumeOrTone := some c.volumeOrTone
  noiseMode := some c.noiseMode
  noiseRate := some c.noiseRate.toNat
  noiseShiftRegister := some c.noiseShiftRegister.toNat
  clock := some c.clock.toList
  noiseClock := some c.noiseClock
  phase := some c.phase.toList
  noiseBit := some c.noiseBit
  panning := some c.panning.toNat
  sampleClockDivider := some c.sampleClockDivider
  currentSampleLeft := some c.currentSampleLeft
  currentSampleRight := some c.currentSampleRight

end Sys2Proof.Machine
end

