-- ==== Sys2Proof/Syntax.lean ====
section
/-! DEFINITION. The operations of the block, one constructor per row of spec/opcode_table.json.  Operands
are the fields the spec assigns; bits a command ignores (spec/30_encoding.md R70) are no operand. -/

namespace Sys2Proof

/-- An operation of the block (spec/30_encoding.md R68, R72). -/
inductive Instr where
  /-- `1000dddd` (R80). -/
  | latchToneA (d : BitVec 4)
  /-- `1001dddd` (R84). -/
  | latchVolA (d : BitVec 4)
  /-- `1010dddd` (R81). -/
  | latchToneB (d : BitVec 4)
  /-- `1011dddd` (R85). -/
  | latchVolB (d : BitVec 4)
  /-- `1100dddd` (R82). -/
  | latchToneC (d : BitVec 4)
  /-- `1101dddd` (R86). -/
  | latchVolC (d : BitVec 4)
  /-- `1110xmrr` (R83). -/
  | latchNoise (m : Bool) (r : BitVec 2)
  /-- `1111dddd` (R87). -/
  | latchVolN (d : BitVec 4)
  /-- `0xxxdddd`, in volume mode (R92). -/
  | dataVol (d : BitVec 4)
  /-- `0xhhhhhh`, with a tone channel latched in tone mode (R93). -/
  | dataTone (h : BitVec 6)
  /-- `0xxxxmrr`, with the noise channel latched in tone mode (R94). -/
  | dataNoise (m : Bool) (r : BitVec 2)
  /-- `pppppppp` at the panning port (R130). -/
  | setpan (p : BitVec 8)
  /-- No byte (R133). -/
  | read
  /-- No byte (R101). -/
  | advance
  /-- No byte (R160). -/
  | reset
  /-- No byte (R145). -/
  | save
  /-- No byte; the operand is the image (R146). -/
  | load (img : Machine.Image)
deriving DecidableEq, Repr, Inhabited

end Sys2Proof
end

