-- ==== Sys2Proof/WellFormed.lean ====
section
/-! DEFINITION. Well-formed terms.  Every bit pattern of a command operand is legal (spec/10_state.md R29,
spec/30_encoding.md R70), so the only operand with a condition is the image of `LOAD`
(spec/60_exceptions.md R146, R148); the only other term with one is a port map (spec/20_memory.md R44). -/

namespace Sys2Proof

/-- The image is not malformed (R146). -/
def Machine.Image.complete (img : Machine.Image) : Bool := img.values?.isSome

/-- The image is not malformed and satisfies the precondition of `LOAD` (R148). -/
def Machine.Image.acceptable (img : Machine.Image) : Bool :=
  match img.values? with
  | some v => v.inRange
  | none => false

/-- The instruction's operands are legal. -/
def Instr.wellFormed : Instr → Bool
  | .latchToneA _ => true
  | .latchVolA _ => true
  | .latchToneB _ => true
  | .latchVolB _ => true
  | .latchToneC _ => true
  | .latchVolC _ => true
  | .latchNoise _ _ => true
  | .latchVolN _ => true
  | .dataVol _ => true
  | .dataTone _ => true
  | .dataNoise _ _ => true
  | .setpan _ => true
  | .read => true
  | .advance => true
  | .reset => true
  | .save => true
  | .load img => img.acceptable

/-- A store selects one port: the write and panning ports have different addresses. -/
def Machine.PortMap.wellFormed (pm : Machine.PortMap) : Bool := pm.writePort != pm.panPort

end Sys2Proof
end

