-- ==== Sys2Proof/Decode.lean ====
section
/-! DEFINITION. The decoder and the encoder (spec/30_encoding.md).  The decoder is total: every byte at
every port has a meaning (R70), so nothing is rejected.  A data byte's meaning depends on the latch (R69),
which is therefore an argument of the decoder. -/

namespace Sys2Proof

open Machine

/-- A latch byte, `b[7] = 1`: `cc` and `t` select one of eight commands (R61, R68).  No state is read. -/
def decodeLatch (b : Byte) : Instr :=
  match Channel.ofSelect (fieldCc b), fieldT b with
  | .a, false => .latchToneA (fieldD b)
  | .a, true => .latchVolA (fieldD b)
  | .b, false => .latchToneB (fieldD b)
  | .b, true => .latchVolB (fieldD b)
  | .c, false => .latchToneC (fieldD b)
  | .c, true => .latchVolC (fieldD b)
  | .noise, false => .latchNoise (fieldM b) (fieldR b)
  | .noise, true => .latchVolN (fieldD b)

/-- A data byte, `b[7] = 0`, read by the latch (R63, R68, R69). -/
def decodeData (channelSelect : BitVec 2) (volumeOrTone : Bool) (b : Byte) : Instr :=
  if volumeOrTone then .dataVol (fieldD b)
  else if channelSelect = 3 then .dataNoise (fieldM b) (fieldR b)
  else .dataTone (fieldH b)

/-- A byte at the write port (R60, R68, R89). -/
def decodeWrite (channelSelect : BitVec 2) (volumeOrTone : Bool) (b : Byte) : Instr :=
  if isLatch b then decodeLatch b else decodeData channelSelect volumeOrTone b

/-- The instruction of a host event, under the latch `channelSelect`, `volumeOrTone` (R68, R72). -/
def decode (channelSelect : BitVec 2) (volumeOrTone : Bool) : HostEvent → Instr
  | .write b => decodeWrite channelSelect volumeOrTone b
  | .setpan b => .setpan b
  | .read => .read
  | .advance => .advance
  | .reset => .reset
  | .save => .save
  | .load img => .load img

/-- The instruction whose bits are `w`, as the write port reads them with the latch as reset leaves it.
The table's words carry neither the port nor the latch (log entry 8): a data byte is therefore `DATA_TONE`
here, and the rows of the other ports have no word of their own. -/
def decodeTableWord (nbits w : Nat) : Option Instr :=
  if nbits = 8 ∧ w < 256 then
    some (decode ChipState.reset.channelSelect ChipState.reset.volumeOrTone (.write (BitVec.ofNat 8 w)))
  else none

/-! ### The encoder -/

/-- A latch byte from its fields (R61). -/
def latchByte (cc : BitVec 2) (t : Bool) (d : BitVec 4) : Byte :=
  (1 : BitVec 1) ++ cc ++ BitVec.ofBool t ++ d

/-- The noise-control nibble; the ignored bit 3 is sent as 0 (R67, R73). -/
def noiseNibble (m : Bool) (r : BitVec 2) : BitVec 4 := (0 : BitVec 1) ++ BitVec.ofBool m ++ r

/-- The event that presents an instruction to the block (R61, R63, R64, R72, R73); ignored bits are 0. -/
def encode : Instr → HostEvent
  | .latchToneA d => .write (latchByte 0 false d)
  | .latchVolA d => .write (latchByte 0 true d)
  | .latchToneB d => .write (latchByte 1 false d)
  | .latchVolB d => .write (latchByte 1 true d)
  | .latchToneC d => .write (latchByte 2 false d)
  | .latchVolC d => .write (latchByte 2 true d)
  | .latchNoise m r => .write (latchByte 3 false (noiseNibble m r))
  | .latchVolN d => .write (latchByte 3 true d)
  | .dataVol d => .write ((0 : BitVec 4) ++ d)
  | .dataTone h => .write ((0 : BitVec 2) ++ h)
  | .dataNoise m r => .write ((0 : BitVec 4) ++ noiseNibble m r)
  | .setpan p => .setpan p
  | .read => .read
  | .advance => .advance
  | .reset => .reset
  | .save => .save
  | .load img => .load img

/-- The latch states in which an instruction's byte is read as that instruction: the condition each data
command's rule begins with (R92, R93, R94); every other instruction decodes without state (R69). -/
def Instr.selectedBy (channelSelect : BitVec 2) (volumeOrTone : Bool) : Instr → Bool
  | .latchToneA _ => true
  | .latchVolA _ => true
  | .latchToneB _ => true
  | .latchVolB _ => true
  | .latchToneC _ => true
  | .latchVolC _ => true
  | .latchNoise _ _ => true
  | .latchVolN _ => true
  | .dataVol _ => volumeOrTone
  | .dataTone _ => !volumeOrTone && channelSelect != 3
  | .dataNoise _ _ => !volumeOrTone && channelSelect == 3
  | .setpan _ => true
  | .read => true
  | .advance => true
  | .reset => true
  | .save => true
  | .load _ => true

end Sys2Proof
end

