-- ==== Sys2Proof/Machine/Flags.lean ====
section
/-! DEFINITION. The block's flags, the Boolean outputs `phase[]` and `noiseBit` (spec/10_state.md R21,
R22), and the noise feedback bit.  No operation computes a carry, zero or overflow flag. -/

namespace Sys2Proof.Machine

/-- The bit sampled into `noiseBit`: bit 0 before the shift (R106). -/
def noiseOutput (s : Lfsr) : Bool := s.getLsbD 0

/-- The feedback bit: `s[0] ^ s[1]` in LFSR mode, `s[0]` in periodic mode (R107). -/
def noiseFeedback (mode : Bool) (s : Lfsr) : Bool :=
  if mode = lfsrModeValue then s.getLsbD 0 ^^ s.getLsbD 1 else s.getLsbD 0

/-- The flag a channel contributes to the mixer: `phase[c]`, or `noiseBit` for noise (R114). -/
def ChipState.isOn (c : ChipState) : Channel → Bool
  | .a => c.phase.a
  | .b => c.phase.b
  | .c => c.phase.c
  | .noise => c.noiseBit

/-- `phase[k] <- !phase[k]` (R110). -/
def ChipState.flipPhase (c : ChipState) (k : ToneChannel) : ChipState :=
  { c with phase := c.phase.set k (!c.phase.get k) }

/-- `noiseBit <- (noiseShiftRegister[0] == 1)` (R106). -/
def ChipState.sampleNoise (c : ChipState) : ChipState :=
  { c with noiseBit := noiseOutput c.noiseShiftRegister }

end Sys2Proof.Machine
end

