-- ==== Sys2Proof/Machine/State.lean ====
section
/-! DEFINITION. The machine's state, the reasons a step can stop, and the state after reset. -/

namespace Sys2Proof.Machine

/-- The block with its host interface.  `chip` is the whole state the spec gives the block
(spec/10_state.md R11 to R25, R33); the other fields render the interface of spec/20_memory.md R42. -/
structure State where
  /-- The fifteen state elements. -/
  chip : ChipState
  /-- False after a failed `LOAD`, until a `RESET` or another `LOAD` (spec/60_exceptions.md R144). -/
  usable : Bool
  /-- The model's own: which free record the next failed `LOAD` takes (log entry 7). -/
  freeCount : Nat
  /-- What the last event handed back to the host (spec/20_memory.md R42). -/
  reply : Option HostReply
  /-- The events the host has still to apply, in the order it chose (spec/00_scope.md R7). -/
  events : List HostEvent
deriving DecidableEq, Repr, Inhabited

/-- There is no fault: no operation of the block can fault, trap or stall (spec/60_exceptions.md R140;
spec/93_implementation_defined.md: no behaviour of the block maps to `fault` or `stuck`). -/
inductive Fault where
deriving DecidableEq, Repr

/-- Why a step has no meaning. -/
inductive Refusal where
  /-- Raised by `exec` alone, for an instruction the model gives no meaning; none is left.  Safe. -/
  | notModelled (mnemonic : String)
  /-- Raised by every meaning but those of `RESET` and `LOAD` in the state after a failed `LOAD`: only those
  two events have a defined meaning there (R144, U7).  Safe: the model stops where the spec gives no effect. -/
  | unusableState
  /-- Raised by the meaning of `LOAD` for an image outside invariants I1, I3 to I8: the spec gives such images
  no meaning and asks a model to refuse them (R148, D18).  Safe. -/
  | imageOutsideInvariants
  /-- Raised by the meaning of a data command in a latch state in which its byte is another data command
  (R91 to R94).  The decoder never selects it there, so no step raises it.  Safe. -/
  | otherDataCommand
deriving DecidableEq, Repr

/-- The machine right after reset (R161), with nothing yet asked of it. -/
def State.reset : State where
  chip := ChipState.reset
  usable := true
  freeCount := 0
  reply := none
  events := []

end Sys2Proof.Machine
end

