-- ==== Sys2Proof/Machine/Ops.lean ====
section
/-! DEFINITION. The shared operations: register writes (spec/40_register_write.md), the tick
(spec/41_clock_step.md), and the two ways an event ends (spec/60_exceptions.md): it completes, or a `LOAD`
raises `StateCorruption`.  The block takes no trap and returns from none (R144), so raising
`StateCorruption` and recovering by `RESET` or `LOAD` is all there is of exception entry and return. -/

namespace Sys2Proof.Machine

/-! ### Register writes -/

/-- Set the latch (R88). -/
def ChipState.latch (c : ChipState) (select : BitVec 2) (mode : Bool) : ChipState :=
  { c with channelSelect := select, volumeOrTone := mode }

/-- `volume[k] <- d` (R66). -/
def ChipState.writeVolume (c : ChipState) (k : Channel) (d : BitVec 4) : ChipState :=
  { c with volume := c.volume.set k d }

/-- `toneReload[k][3:0] <- d` (R65). -/
def ChipState.writeToneLow (c : ChipState) (k : ToneChannel) (d : BitVec 4) : ChipState :=
  { c with toneReload := c.toneReload.set k (Period.withLow (c.toneReload.get k) d) }

/-- `toneReload[k][9:4] <- h` (R65). -/
def ChipState.writeToneHigh (c : ChipState) (k : ToneChannel) (h : BitVec 6) : ChipState :=
  { c with toneReload := c.toneReload.set k (Period.withHigh (c.toneReload.get k) h) }

/-- `NoiseControl`: mode, rate, and the unconditional reseed (R95). -/
def ChipState.noiseControl (c : ChipState) (m : Bool) (r : BitVec 2) : ChipState :=
  { c with noiseMode := m, noiseRate := r, noiseShiftRegister := noiseSeed }

/-! ### The tick -/

/-- Step 1, `DecrementAll` (R103). -/
def ChipState.decrementAll (c : ChipState) : ChipState :=
  { c with clock := c.clock.map (· - 1), noiseClock := c.noiseClock - 1 }

/-- A zero shift register is reseeded; any other value stays (R105, R147). -/
def guardZero (s : Lfsr) : Lfsr := if s = 0 then noiseSeed else s

/-- `noiseShiftRegister <- (s >> 1) | (fb << (LFSR_W-1))` (R107). -/
def noiseShift (mode : Bool) (s : Lfsr) : Lfsr :=
  (s >>> 1) ||| ((BitVec.ofBool (noiseFeedback mode s)).setWidth lfsrW <<< (lfsrW - 1))

/-- `base` of the noise reload: a fixed divisor, or `toneReload[2] + 1` for rate 3 (R108). -/
def noiseBase (rate : BitVec 2) (toneC : Period) : Nat := noiseDiv.getD rate.toNat (toneC.toNat + 1)

/-- The value a noise reload gives `noiseClock` (R108). -/
def noiseReload (rate : BitVec 2) (toneC : Period) : Int := (noiseScale * noiseBase rate toneC : Nat)

/-- The value a tone reload gives `clock[k]` (R110). -/
def toneReloadValue (p : Period) : Int := (p.toNat + 1 : Nat)

/-- The zero guard of `NoiseFire` (R105). -/
def ChipState.guardNoise (c : ChipState) : ChipState :=
  { c with noiseShiftRegister := guardZero c.noiseShiftRegister }

/-- The shift of `NoiseFire` (R107). -/
def ChipState.shiftNoise (c : ChipState) : ChipState :=
  { c with noiseShiftRegister := noiseShift c.noiseMode c.noiseShiftRegister }

/-- The reload of `NoiseFire` (R108). -/
def ChipState.reloadNoise (c : ChipState) : ChipState :=
  { c with noiseClock := noiseReload c.noiseRate c.toneReload.c }

/-- `NoiseFire`: guard, sample, shift, reload, in that order (R104). -/
def ChipState.noiseFire (c : ChipState) : ChipState :=
  c.guardNoise.sampleNoise.shiftNoise.reloadNoise

/-- Step 2: `NoiseFire` when the decremented noise counter is zero (R102, R104). -/
def ChipState.stepNoise (c : ChipState) : ChipState :=
  if c.noiseClock = 0 then c.noiseFire else c

/-- `ToneFire(k)`: invert the phase, reload the counter (R110). -/
def ChipState.toneFire (c : ChipState) (k : ToneChannel) : ChipState :=
  let c' := c.flipPhase k
  { c' with clock := c'.clock.set k (toneReloadValue (c'.toneReload.get k)) }

/-- Step 3 for one channel: `ToneFire(k)` when its decremented counter is zero (R102, R110). -/
def ChipState.stepTone (c : ChipState) (k : ToneChannel) : ChipState :=
  if c.clock.get k = 0 then c.toneFire k else c

/-- What channel `k` adds to an output: its amplitude when it is on and routed there, else 0 (R114). -/
def ChipState.contribution (c : ChipState) (side : Side) (k : Channel) : Nat :=
  if c.isOn k && c.panning.getLsbD (panBit side k) then volEntry (c.volume.get k) * Config.mixScale else 0

/-- An output: the sum of the four contributions (R114). -/
def ChipState.mixSide (c : ChipState) (side : Side) : Nat :=
  c.contribution side .a + c.contribution side .b + c.contribution side .c + c.contribution side .noise

/-- Step 4, `Mix` (R114). -/
def ChipState.mix (c : ChipState) : ChipState :=
  { c with currentSampleLeft := c.mixSide .left, currentSampleRight := c.mixSide .right }

/-- `TICK`: the four steps in order (R102). -/
def ChipState.tick (c : ChipState) : ChipState :=
  ((((c.decrementAll.stepNoise).stepTone .a).stepTone .b).stepTone .c).mix

/-- `sampleClockDivider <- d` (R101). -/
def ChipState.setDivider (c : ChipState) (d : Nat) : ChipState := { c with sampleClockDivider := d }

/-- One host clock pulse (R101). -/
def ChipState.pulse (c : ChipState) : ChipState :=
  if c.sampleClockDivider + 1 = divRatio then (c.setDivider 0).tick
  else c.setDivider (c.sampleClockDivider + 1)

/-! ### How an event ends -/

/-- An event with a meaning only in a usable state completes: the new elements, and what it hands back. -/
def State.complete (s : State) (chip : ChipState) (reply : Option HostReply) :
    Host.Outcome State Fault Refusal :=
  if s.usable then .next { s with chip := chip, reply := reply } else .refused .unusableState

/-- The whole state is installed anew, whatever it was before: `RESET`, or an accepted `LOAD` (R146, R160). -/
def State.install (s : State) (chip : ChipState) : State :=
  { s with chip := chip, usable := true, reply := none }

/-- `raise StateCorruption()`: the load fails, the host is told, every element is any value and the state is
unusable (R141, R144, R146; U7). -/
def State.raiseStateCorruption (s : State) : State :=
  { s with chip := Config.freeChip s.freeCount, usable := false, freeCount := s.freeCount + 1,
           reply := some .stateCorruption }

/-- The last step of `LOAD`: a zero shift register is repaired (R146, R147). -/
def ChipState.repair (c : ChipState) : ChipState := c.guardNoise

/-- The sample output, read at any point without an event (R134). -/
def State.sampleOutput (s : State) : Nat × Nat := (s.chip.currentSampleLeft, s.chip.currentSampleRight)

end Sys2Proof.Machine
end

