-- ==== Sys2Proof/Machine/ClockStep.lean ====
section
/-! DEFINITION. The clock step, `ADVANCE` (spec/41_clock_step.md). -/

namespace Sys2Proof.Machine

/-- `ADVANCE`: one host clock pulse, and on every sixteenth one tick (R101, R102). -/
def execAdvance (s : State) : Host.Outcome State Fault Refusal := s.complete s.chip.pulse none

end Sys2Proof.Machine
end

