-- ==== Sys2Proof/Machine/Lifecycle.lean ====
section
/-! DEFINITION. Reset, save and load (spec/70_reset_and_hazards.md R160; spec/60_exceptions.md R145 to
R148). -/

namespace Sys2Proof.Machine

/-- `RESET`: the reset record, from any state, the unusable one included (R160, R161). -/
def execReset (s : State) : Host.Outcome State Fault Refusal := .next (s.install ChipState.reset)

/-- `SAVE`: hands back the image and changes no element (R145). -/
def execSave (s : State) : Host.Outcome State Fault Refusal :=
  s.complete s.chip (some (.image (Image.ofChip s.chip)))

/-- `LOAD(img)`: a malformed image raises `StateCorruption`; one outside the invariants has no meaning;
any other overwrites every element and repairs a zero shift register (R146 to R148). -/
def execLoad (img : Image) (s : State) : Host.Outcome State Fault Refusal :=
  match img.values? with
  | none => .next s.raiseStateCorruption
  | some v => if v.inRange then .next (s.install v.toChip.repair) else .refused .imageOutsideInvariants

end Sys2Proof.Machine
end

