-- ==== Sys2Proof/Machine/PanRead.lean ====
section
/-! DEFINITION. The panning write and the register read (spec/42_pan_read_sample.md). -/

namespace Sys2Proof.Machine

/-- `SETPAN p`: the whole mask is replaced; the samples are not recomputed (R130). -/
def execSetpan (p : BitVec 8) (s : State) : Host.Outcome State Fault Refusal :=
  s.complete { s.chip with panning := p } none

/-- `READ`: hands back the sentinel and changes no element (R133). -/
def execRead (s : State) : Host.Outcome State Fault Refusal :=
  s.complete s.chip (some (.byte readSentinel))

end Sys2Proof.Machine
end

