-- ==== Sys2Proof/Machine/RegisterWrite.lean ====
section
/-! DEFINITION. The eleven register-write commands (spec/40_register_write.md). -/

namespace Sys2Proof.Machine

/-- `LATCH_TONE_A d` (R80). -/
def execLatchToneA (d : BitVec 4) (s : State) : Host.Outcome State Fault Refusal :=
  s.complete ((s.chip.latch 0 false).writeToneLow .a d) none

/-- `LATCH_TONE_B d` (R81). -/
def execLatchToneB (d : BitVec 4) (s : State) : Host.Outcome State Fault Refusal :=
  s.complete ((s.chip.latch 1 false).writeToneLow .b d) none

/-- `LATCH_TONE_C d` (R82). -/
def execLatchToneC (d : BitVec 4) (s : State) : Host.Outcome State Fault Refusal :=
  s.complete ((s.chip.latch 2 false).writeToneLow .c d) none

/-- `LATCH_NOISE m, r` (R83). -/
def execLatchNoise (m : Bool) (r : BitVec 2) (s : State) : Host.Outcome State Fault Refusal :=
  s.complete ((s.chip.latch 3 false).noiseControl m r) none

/-- `LATCH_VOL_A d` (R84). -/
def execLatchVolA (d : BitVec 4) (s : State) : Host.Outcome State Fault Refusal :=
  s.complete ((s.chip.latch 0 true).writeVolume .a d) none

/-- `LATCH_VOL_B d` (R85). -/
def execLatchVolB (d : BitVec 4) (s : State) : Host.Outcome State Fault Refusal :=
  s.complete ((s.chip.latch 1 true).writeVolume .b d) none

/-- `LATCH_VOL_C d` (R86). -/
def execLatchVolC (d : BitVec 4) (s : State) : Host.Outcome State Fault Refusal :=
  s.complete ((s.chip.latch 2 true).writeVolume .c d) none

/-- `LATCH_VOL_N d`: a volume write, not a noise-control write, so no reseed (R87; 90_conflicts.md C5). -/
def execLatchVolN (d : BitVec 4) (s : State) : Host.Outcome State Fault Refusal :=
  s.complete ((s.chip.latch 3 true).writeVolume .noise d) none

/-- `DATA_VOL d`, with volume mode latched (R91, R92). -/
def execDataVol (d : BitVec 4) (s : State) : Host.Outcome State Fault Refusal :=
  if s.chip.volumeOrTone then s.complete (s.chip.writeVolume (Channel.ofSelect s.chip.channelSelect) d) none
  else .refused .otherDataCommand

/-- `DATA_TONE h`, with tone mode and a tone channel latched (R91, R93). -/
def execDataTone (h : BitVec 6) (s : State) : Host.Outcome State Fault Refusal :=
  match s.chip.volumeOrTone, ToneChannel.ofSelect? s.chip.channelSelect with
  | false, some k => s.complete (s.chip.writeToneHigh k h) none
  | _, _ => .refused .otherDataCommand

/-- `DATA_NOISE m, r`, with tone mode and the noise channel latched (R91, R94). -/
def execDataNoise (m : Bool) (r : BitVec 2) (s : State) : Host.Outcome State Fault Refusal :=
  if s.chip.volumeOrTone = false ∧ s.chip.channelSelect = 3 then s.complete (s.chip.noiseControl m r) none
  else .refused .otherDataCommand

end Sys2Proof.Machine
end

