-- ==== Sys2Proof/Machine/Dispatch.lean ====
section
/-! DEFINITION. The meaning of each instruction, one arm per constructor. -/

namespace Sys2Proof.Machine

def exec (i : Instr) (s : State) : Host.Outcome State Fault Refusal :=
  match i with
  | .latchToneA d => Sys2Proof.Machine.execLatchToneA d s
  | .latchVolA d => Sys2Proof.Machine.execLatchVolA d s
  | .latchToneB d => Sys2Proof.Machine.execLatchToneB d s
  | .latchVolB d => Sys2Proof.Machine.execLatchVolB d s
  | .latchToneC d => Sys2Proof.Machine.execLatchToneC d s
  | .latchVolC d => Sys2Proof.Machine.execLatchVolC d s
  | .latchNoise m r => Sys2Proof.Machine.execLatchNoise m r s
  | .latchVolN d => Sys2Proof.Machine.execLatchVolN d s
  | .dataVol d => Sys2Proof.Machine.execDataVol d s
  | .dataTone h => Sys2Proof.Machine.execDataTone h s
  | .dataNoise m r => Sys2Proof.Machine.execDataNoise m r s
  | .setpan p => Sys2Proof.Machine.execSetpan p s
  | .read => Sys2Proof.Machine.execRead s
  | .advance => Sys2Proof.Machine.execAdvance s
  | .reset => Sys2Proof.Machine.execReset s
  | .save => Sys2Proof.Machine.execSave s
  | .load img => Sys2Proof.Machine.execLoad img s

end Sys2Proof.Machine
end

