-- ==== Sys2Proof/Machine/Fetch.lean ====
section
/-! DEFINITION. Taking the host's next event.  The block fetches nothing (spec/10_state.md R36): the host
applies its events one at a time in the order it chose (spec/00_scope.md R7, spec/20_memory.md R50), and a
data byte is read by the latch as it stands when the event is applied (spec/30_encoding.md R69). -/

namespace Sys2Proof.Machine

/-- The instruction an event is in a state: the latch of the moment reads it. -/
def State.decodeEvent (s : State) (e : HostEvent) : Instr :=
  decode s.chip.channelSelect s.chip.volumeOrTone e

/-- The next event's instruction, with the event taken off the host's list; `none` when there is none. -/
def State.takeEvent (s : State) : Option (Instr × State) :=
  match s.events with
  | [] => none
  | e :: rest => some (s.decodeEvent e, { s with events := rest })

/-- The host presents a write-port byte as its next event. -/
def State.presentByte (s : State) (b : Byte) : State := { s with events := .write b :: s.events }

/-- The platform makes a bus access after the events already presented; an address the port map does not
give the block makes no event (R44). -/
def State.busAccess (s : State) (a : BusAccess) : State :=
  match Config.portMap.resolve a with
  | some e => { s with events := s.events ++ [e] }
  | none => s

end Sys2Proof.Machine
end

