-- ==== Sys2Proof/Machine/Step.lean ====
section
/-! DEFINITION. One step: the host's next event, applied as one atomic operation (spec/20_memory.md R48,
R50).  With no event the block does nothing (spec/60_exceptions.md R151). -/

namespace Sys2Proof.Machine

/-- One step of the machine. -/
def step (s : State) : Host.Outcome State Fault Refusal :=
  match s.takeEvent with
  | none => .next s
  | some (i, s') => exec i s'

/-- `s` with the write-port byte `w` as the host's next event, so that `step` runs it (log entry 8). -/
def State.withFetchWord (s : State) (nbits w : Nat) : State :=
  if nbits = 8 then s.presentByte (BitVec.ofNat 8 w) else s

end Sys2Proof.Machine
end

