-- ==== Sys2Proof/Machine/Commands.lean ====
section
/-! DEFINITION. Applying events directly, and the command names of spec/30_encoding.md R73: each stands for
a short list of events. -/

namespace Sys2Proof.Machine

/-- Apply one event: the operation `step` performs on the head of the host's list. -/
def State.apply (s : State) (e : HostEvent) : Host.Outcome State Fault Refusal := exec (s.decodeEvent e) s

/-- Apply events in order, stopping at the first that has no meaning. -/
def State.applyAll (s : State) : List HostEvent → Host.Outcome State Fault Refusal
  | [] => .next s
  | e :: rest =>
    match s.apply e with
    | .next t => t.applyAll rest
    | .fault r => .fault r
    | .refused r => .refused r

/-- `ADVANCE n` (R73). -/
def advanceMany (n : Nat) : List HostEvent := List.replicate n .advance

/-- `TICK n` (R73). -/
def tickMany (n : Nat) : List HostEvent := advanceMany (16 * n)

/-- `SETTONE k, N` (R73): the latch byte with the low nibble, then the data byte with the high six bits. -/
def setTone (k : ToneChannel) (n : Period) : List HostEvent :=
  [.write (latchByte k.index false (n.extractLsb' 0 4)), .write ((0 : BitVec 2) ++ n.extractLsb' 4 6)]

/-- `SETVOL k, v` (R73). -/
def setVol (k : Channel) (v : VolIndex) : List HostEvent := [.write (latchByte k.index true v)]

/-- `SETNOISE m, r` (R73). -/
def setNoise (m : Bool) (r : BitVec 2) : List HostEvent := [.write (latchByte 3 false (noiseNibble m r))]

/-- `SILENCE` (R73). -/
def silence : List HostEvent :=
  setVol .a 15 ++ setVol .b 15 ++ setVol .c 15 ++ setVol .noise 15

end Sys2Proof.Machine
end

