-- ==== Sys2Proof/Safety.lean ====
section
/-! DEFINITION. What the statements call a good state: the invariants of spec/10_state.md R27. -/

namespace Sys2Proof.Machine

/-- The invariants I1 to I8 between events (R27).  I1, I3 and I4 hold by the widths of the fields. -/
structure ChipState.Inv (c : ChipState) : Prop where
  i1 : c.channelSelect.toNat ≤ 3
  i2 : 0 < c.noiseShiftRegister.toNat ∧ c.noiseShiftRegister.toNat < 2 ^ lfsrW
  i3 : ∀ k : Channel, (c.volume.get k).toNat ≤ 15
  i4 : ∀ k : ToneChannel, (c.toneReload.get k).toNat ≤ 1023
  i5 : ∀ k : ToneChannel, 1 ≤ c.clock.get k ∧ c.clock.get k ≤ 1024
  i6 : 1 ≤ c.noiseClock ∧ c.noiseClock ≤ 2048
  i7 : c.sampleClockDivider ≤ 15
  i8 : c.currentSampleLeft ≤ 1020 * Config.mixScale ∧ c.currentSampleRight ≤ 1020 * Config.mixScale

/-- The state invariant: a usable state satisfies R27 (the state after a failed `LOAD` is not usable and may
hold anything, R144). -/
def State.Inv (s : State) : Prop := s.usable = true → s.chip.Inv

/-- What every `WRITE` sequence determines (R97): the eight programmable registers and the latch. -/
structure Programmed where
  volume : PerChannel VolIndex
  toneReload : PerTone Period
  noiseMode : Bool
  noiseRate : BitVec 2
  channelSelect : BitVec 2
  volumeOrTone : Bool
deriving DecidableEq, Repr

/-- The programmable registers and the latch of a state. -/
def ChipState.programmed (c : ChipState) : Programmed :=
  ⟨c.volume, c.toneReload, c.noiseMode, c.noiseRate, c.channelSelect, c.volumeOrTone⟩

/-- The two modes are named by what they select, not by the value of `noiseMode` (R107, D3). -/
def ChipState.lfsrMode (c : ChipState) : Bool := c.noiseMode == lfsrModeValue

end Sys2Proof.Machine
end

