-- ==== Sys2Proof/Certificates/Slice0/Obligations.lean ====
section
/-! DEFINITION. The statements about the model.  Most are made of `State.apply` (one event) and
`State.applyAll` (events in order); `StepRunsNextEvent` and `RunAppliesEvents` carry them to `step` and to runs
of the machine.  `MIX_SCALE`, `PORT_MAP` and the elements after a failed load are free: every statement holds
whatever they are. -/

open Sys2Proof Sys2Proof.Machine Host

/-! ### Encoding -/

/-- Decoding an encoded instruction gives it back, for every operand, under every latch that selects it
(spec/30_encoding.md sections 1 to 4; the latch condition is that of R92 to R94). -/
def Obligations.DecodeEncodeRoundTrip : Prop :=
  ∀ (i : Instr) (q : BitVec 2) (v : Bool), i.selectedBy q v = true → decode q v (encode i) = i

/-- Encoding what a byte decodes to gives the byte back with the bits no field uses cleared: bit 3 of a noise latch;
bits 6-4 of a volume data byte; bit 6 of a tone data byte; bits 6-3 of a noise data byte.  Which bits those are is
spec/30_encoding.md section 5 (decision D16: not stored, no effect).  That the encoder sends them as 0 is spec/30_encoding.md
section 6 for the noise latch and the model's own choice for data bytes (log entry 13). -/
def Obligations.EncodeDecodeClearsIgnoredBits : Prop :=
  ∀ (q : BitVec 2) (v : Bool) (b : Byte),
    encode (decode q v (.write b)) = .write (b &&&
      (if b.getLsbD 7 then (if b.extractLsb' 4 3 = 6 then 0xF7 else 0xFF)
       else if v then 0x8F else if q = 3 then 0x87 else 0xBF))

/-- The ignored bits of a byte have no effect: the byte and the byte with them cleared end alike (R70, decision
D16). -/
def Obligations.IgnoredBitsHaveNoEffect : Prop :=
  ∀ (s : State) (b : Byte), s.usable = true →
    ∃ t, s.apply (.write b) = .next t ∧
      s.apply (.write (b &&&
        (if b.getLsbD 7 then (if b.extractLsb' 4 3 = 6 then 0xF7 else 0xFF)
         else if s.chip.volumeOrTone then 0x8F else if s.chip.channelSelect = 3 then 0x87 else 0xBF))) = .next t

/-- The opcode map of the write port, row by row (spec/30_encoding.md section 3). -/
def Obligations.OpcodeMapRows : Prop :=
  ∀ (q : BitVec 2) (v : Bool) (d : BitVec 4) (b : Byte),
    decode q v (.write (0x8#4 ++ d)) = .latchToneA d ∧
    decode q v (.write (0x9#4 ++ d)) = .latchVolA d ∧
    decode q v (.write (0xA#4 ++ d)) = .latchToneB d ∧
    decode q v (.write (0xB#4 ++ d)) = .latchVolB d ∧
    decode q v (.write (0xC#4 ++ d)) = .latchToneC d ∧
    decode q v (.write (0xD#4 ++ d)) = .latchVolC d ∧
    decode q v (.write (0xE#4 ++ d)) = .latchNoise (d.getLsbD 2) (d.extractLsb' 0 2) ∧
    decode q v (.write (0xF#4 ++ d)) = .latchVolN d ∧
    (b.getLsbD 7 = false →
      (v = true → decode q v (.write b) = .dataVol (b.extractLsb' 0 4)) ∧
      (v = false → q ≠ 3 → decode q v (.write b) = .dataTone (b.extractLsb' 0 6)) ∧
      (v = false → q = 3 → decode q v (.write b) = .dataNoise (b.getLsbD 2) (b.extractLsb' 0 2)))

/-- A few words written out from the encodings (spec/30_encoding.md section 3; spec/95_test_vectors.md). -/
def Obligations.WrittenWordsDecode : Prop :=
  decode 0 false (.write 0b10000101) = .latchToneA 5 ∧
  decode 0 false (.write 0b11101101) = .latchNoise true 1 ∧
  decode 0 false (.write 0b11110100) = .latchVolN 4 ∧
  decode 2 true (.write 0b01111100) = .dataVol 12 ∧
  decode 0 false (.write 0b01111111) = .dataTone 63 ∧
  decode 3 false (.write 0b00000111) = .dataNoise true 3 ∧
  decode 0 false (.setpan 0b00011110) = .setpan 0x1E

/-- The latch decides what a data byte is, a latch byte decodes without it, and only a latch byte, `RESET` or
`LOAD` changes it (R69). -/
def Obligations.LatchDecidesDataBytes : Prop :=
  (∀ (q q' : BitVec 2) (v v' : Bool) (b : Byte), b.getLsbD 7 = true →
      decode q v (.write b) = decode q' v' (.write b)) ∧
  (∀ (q : BitVec 2) (v : Bool) (b : Byte), b.getLsbD 7 = false →
      decode q v (.write b) =
        if v then .dataVol (b.extractLsb' 0 4)
        else if q = 3 then .dataNoise (b.getLsbD 2) (b.extractLsb' 0 2)
        else .dataTone (b.extractLsb' 0 6)) ∧
  (∀ (s t : State) (e : HostEvent), s.apply e = .next t →
      (∀ b, e = .write b → b.getLsbD 7 = false) → e ≠ .reset → (∀ img, e ≠ .load img) →
      t.chip.channelSelect = s.chip.channelSelect ∧ t.chip.volumeOrTone = s.chip.volumeOrTone)

/-! ### Steps and runs -/

/-- A step applies the host's next event, decoded by the latch as it then stands; with no event it does
nothing (spec/00_scope.md R7, spec/60_exceptions.md R151). -/
def Obligations.StepRunsNextEvent : Prop :=
  (∀ (s : State) (e : HostEvent) (rest : List HostEvent), s.events = e :: rest →
      step s = exec (decode s.chip.channelSelect s.chip.volumeOrTone e) { s with events := rest }) ∧
  (∀ s : State, s.events = [] → step s = .next s)

/-- Running the machine for as many steps as there are events in front of the host's list is applying those
events in order (spec/20_memory.md R50). -/
def Obligations.RunAppliesEvents : Prop :=
  ∀ (es rest : List HostEvent) (s : State), s.events = es ++ rest →
    Sys2Proof.core.run es.length s = ({ s with events := rest } : State).applyAll es

/-- `WRITE`, `SETPAN`, `READ`, `ADVANCE` and `RESET` cannot fail, fault, trap, stall or report an error, for any operand,
in any usable state satisfying the invariants (R140).  `usable` leaves out the state after a failed `LOAD`, where the
spec gives most of them no meaning (spec/60_exceptions.md section 4; log entry 7). -/
def Obligations.ChipEventsNeverFail : Prop :=
  ∀ (s : State) (e : HostEvent) (rest : List HostEvent), s.usable = true → s.chip.Inv → s.events = e :: rest →
    e ≠ .save → (∀ img, e ≠ .load img) →
    ∃ t, step s = .next t ∧ t.reply ≠ some .stateCorruption ∧ t.usable = true ∧ t.events = rest ∧
      t.freeCount = s.freeCount

/-- A step is refused only in the unusable state after a failed `LOAD`, or for an image that is not malformed and lies
outside the invariants; in particular the decoder never hands a byte to a data command its latch does not select (the model's reading,
log entries 7, 9 and 10). -/
def Obligations.StepRefusesOnly : Prop :=
  ∀ (s : State) (r : Refusal), step s = .refused r →
    (r = .unusableState ∧ s.usable = false) ∨
    (r = .imageOutsideInvariants ∧ ∃ img rest v, s.events = .load img :: rest ∧ img.values? = some v ∧
      v.inRange = false)

/-! ### Register writes -/

/-- The common part of every latch write: the new latch selects the register that takes the nibble (R88). -/
def Obligations.LatchWriteEffect : Prop :=
  ∀ (s : State) (b : Byte), s.usable = true → b.getLsbD 7 = true →
    s.apply (.write b) = .next { s with
      reply := none
      chip :=
        if b.getLsbD 4 = true then
          { s.chip with
            channelSelect := b.extractLsb' 5 2, volumeOrTone := true
            volume := s.chip.volume.set (Channel.ofSelect (b.extractLsb' 5 2)) (b.extractLsb' 0 4) }
        else
          match ToneChannel.ofSelect? (b.extractLsb' 5 2) with
          | some k =>
            { s.chip with
              channelSelect := b.extractLsb' 5 2, volumeOrTone := false
              toneReload :=
                s.chip.toneReload.set k ((s.chip.toneReload.get k).extractLsb' 4 6 ++ b.extractLsb' 0 4) }
          | none =>
            { s.chip with
              channelSelect := b.extractLsb' 5 2, volumeOrTone := false
              noiseMode := b.getLsbD 2, noiseRate := b.extractLsb' 0 2, noiseShiftRegister := noiseSeed } }

/-- The common part of every data write: the latch, unchanged, selects the register that takes the bits (R91). -/
def Obligations.DataWriteEffect : Prop :=
  ∀ (s : State) (b : Byte), s.usable = true → b.getLsbD 7 = false →
    s.apply (.write b) = .next { s with
      reply := none
      chip :=
        if s.chip.volumeOrTone = true then
          { s.chip with volume := s.chip.volume.set (Channel.ofSelect s.chip.channelSelect) (b.extractLsb' 0 4) }
        else
          match ToneChannel.ofSelect? s.chip.channelSelect with
          | some k =>
            { s.chip with
              toneReload :=
                s.chip.toneReload.set k (b.extractLsb' 0 6 ++ (s.chip.toneReload.get k).extractLsb' 0 4) }
          | none =>
            { s.chip with
              noiseMode := b.getLsbD 2, noiseRate := b.extractLsb' 0 2, noiseShiftRegister := noiseSeed } }

/-- `LATCH_TONE_A`, `LATCH_TONE_B`, `LATCH_TONE_C`: encoding, completion and whole effect (R80 to R82). -/
def Obligations.LatchToneCommands : Prop :=
  (∀ (q : BitVec 2) (v : Bool) (b : Byte),
    (b.extractLsb' 4 4 = 0x8 → decode q v (.write b) = .latchToneA (b.extractLsb' 0 4)) ∧
    (b.extractLsb' 4 4 = 0xA → decode q v (.write b) = .latchToneB (b.extractLsb' 0 4)) ∧
    (b.extractLsb' 4 4 = 0xC → decode q v (.write b) = .latchToneC (b.extractLsb' 0 4))) ∧
  ∀ (s : State) (d : BitVec 4), s.usable = true →
    exec (.latchToneA d) s = .next { s with
      reply := none
      chip := { s.chip with
        channelSelect := 0, volumeOrTone := false
        toneReload := { s.chip.toneReload with a := s.chip.toneReload.a.extractLsb' 4 6 ++ d } } } ∧
    exec (.latchToneB d) s = .next { s with
      reply := none
      chip := { s.chip with
        channelSelect := 1, volumeOrTone := false
        toneReload := { s.chip.toneReload with b := s.chip.toneReload.b.extractLsb' 4 6 ++ d } } } ∧
    exec (.latchToneC d) s = .next { s with
      reply := none
      chip := { s.chip with
        channelSelect := 2, volumeOrTone := false
        toneReload := { s.chip.toneReload with c := s.chip.toneReload.c.extractLsb' 4 6 ++ d } } }

/-- `LATCH_VOL_A`, `LATCH_VOL_B`, `LATCH_VOL_C`, `LATCH_VOL_N`: encoding, completion and whole effect; the last
does not reseed (R84 to R87). -/
def Obligations.LatchVolumeCommands : Prop :=
  (∀ (q : BitVec 2) (v : Bool) (b : Byte),
    (b.extractLsb' 4 4 = 0x9 → decode q v (.write b) = .latchVolA (b.extractLsb' 0 4)) ∧
    (b.extractLsb' 4 4 = 0xB → decode q v (.write b) = .latchVolB (b.extractLsb' 0 4)) ∧
    (b.extractLsb' 4 4 = 0xD → decode q v (.write b) = .latchVolC (b.extractLsb' 0 4)) ∧
    (b.extractLsb' 4 4 = 0xF → decode q v (.write b) = .latchVolN (b.extractLsb' 0 4))) ∧
  ∀ (s : State) (d : BitVec 4), s.usable = true →
    exec (.latchVolA d) s = .next { s with
      reply := none
      chip := { s.chip with
        channelSelect := 0, volumeOrTone := true, volume := { s.chip.volume with a := d } } } ∧
    exec (.latchVolB d) s = .next { s with
      reply := none
      chip := { s.chip with
        channelSelect := 1, volumeOrTone := true, volume := { s.chip.volume with b := d } } } ∧
    exec (.latchVolC d) s = .next { s with
      reply := none
      chip := { s.chip with
        channelSelect := 2, volumeOrTone := true, volume := { s.chip.volume with c := d } } } ∧
    exec (.latchVolN d) s = .next { s with
      reply := none
      chip := { s.chip with
        channelSelect := 3, volumeOrTone := true, volume := { s.chip.volume with noise := d } } }

/-- `NoiseControl`, the common effect of `LATCH_NOISE` and `DATA_NOISE`: mode, rate and an unconditional reseed;
`noiseClock` and `noiseBit` are not written (R95).  A data byte reaches it with (3, tone) latched (R94). -/
def Obligations.NoiseControlCommands : Prop :=
  ∀ (s : State) (m : Bool) (r : BitVec 2), s.usable = true →
    exec (.latchNoise m r) s = .next { s with
      reply := none
      chip := { s.chip with
        channelSelect := 3, volumeOrTone := false
        noiseMode := m, noiseRate := r, noiseShiftRegister := noiseSeed } } ∧
    (s.chip.volumeOrTone = false → s.chip.channelSelect = 3 →
      exec (.dataNoise m r) s = .next { s with
        reply := none
        chip := { s.chip with noiseMode := m, noiseRate := r, noiseShiftRegister := noiseSeed } })

/-- `DATA_VOL d`, in volume mode: the latched channel's volume, noise included, and nothing else (R92). -/
def Obligations.DataVolumeCommand : Prop :=
  ∀ (s : State) (d : BitVec 4), s.usable = true → s.chip.volumeOrTone = true →
    exec (.dataVol d) s = .next { s with
      reply := none
      chip := { s.chip with
        volume :=
          ⟨if s.chip.channelSelect = 0 then d else s.chip.volume.a,
           if s.chip.channelSelect = 1 then d else s.chip.volume.b,
           if s.chip.channelSelect = 2 then d else s.chip.volume.c,
           if s.chip.channelSelect = 3 then d else s.chip.volume.noise⟩ } }

/-- `DATA_TONE h`, in tone mode with a tone channel latched: the high six bits of that channel's period, the low
four retained, and nothing else (R93). -/
def Obligations.DataToneCommand : Prop :=
  ∀ (s : State) (h : BitVec 6), s.usable = true → s.chip.volumeOrTone = false → s.chip.channelSelect ≠ 3 →
    exec (.dataTone h) s = .next { s with
      reply := none
      chip := { s.chip with
        toneReload :=
          ⟨if s.chip.channelSelect = 0 then h ++ s.chip.toneReload.a.extractLsb' 0 4 else s.chip.toneReload.a,
           if s.chip.channelSelect = 1 then h ++ s.chip.toneReload.b.extractLsb' 0 4 else s.chip.toneReload.b,
           if s.chip.channelSelect = 2 then h ++ s.chip.toneReload.c.extractLsb' 0 4 else s.chip.toneReload.c⟩ } }

/-- A data command under a latch that does not select it has no meaning of its own and is refused; no step ever
gets there (`StepRefusesOnly`).  The model's choice, log entry 9. -/
def Obligations.DataCommandsNeedTheirLatch : Prop :=
  ∀ (s : State) (d : BitVec 4) (h : BitVec 6) (m : Bool) (r : BitVec 2),
    (s.chip.volumeOrTone = false → exec (.dataVol d) s = .refused .otherDataCommand) ∧
    (s.chip.volumeOrTone = true ∨ s.chip.channelSelect = 3 →
      exec (.dataTone h) s = .refused .otherDataCommand) ∧
    (s.chip.volumeOrTone = true ∨ s.chip.channelSelect ≠ 3 →
      exec (.dataNoise m r) s = .refused .otherDataCommand)

/-- `SETTONE k, N`: a latch byte with the low nibble and a data byte with the high six bits assemble the period,
`(hi << 4) | lo`, and leave the other periods alone (R65). -/
def Obligations.TonePeriodAssembly : Prop :=
  ∀ (s : State) (k : ToneChannel) (lo : BitVec 4) (hi : BitVec 6), s.usable = true →
    ∃ t, s.applyAll [.write (latchByte k.index false lo), .write ((0 : BitVec 2) ++ hi)] = .next t ∧
      (t.chip.toneReload.get k).toNat = (hi.toNat <<< 4) ||| lo.toNat ∧
      ∀ j, j ≠ k → t.chip.toneReload.get j = s.chip.toneReload.get j

/-- The two halves of a period may be written in either order (spec/20_memory.md R45). -/
def Obligations.TonePeriodEitherOrder : Prop :=
  ∀ (s : State) (k : ToneChannel) (n : Period), s.usable = true →
    s.chip.channelSelect = k.index → s.chip.volumeOrTone = false →
    ∃ t u, s.applyAll (setTone k n) = .next t ∧ s.applyAll (setTone k n).reverse = .next u ∧
      t = u ∧ t.chip.toneReload.get k = n

/-- The command names of spec/30_encoding.md R73 (decision D22): `SETVOL` sets one volume, `SILENCE` sets all four to
15, `SETNOISE` sets mode and rate and reseeds. -/
def Obligations.NamedCommandsEffect : Prop :=
  ∀ (s : State) (k : Channel) (d : VolIndex) (m : Bool) (r : BitVec 2), s.usable = true →
    (∃ t, s.applyAll (setVol k d) = .next t ∧ t.chip.volume = s.chip.volume.set k d ∧
      t.chip.channelSelect = k.index ∧ t.chip.volumeOrTone = true) ∧
    (∃ t, s.applyAll silence = .next t ∧ t.chip.volume = ⟨15, 15, 15, 15⟩) ∧
    (∃ t, s.applyAll (setNoise m r) = .next t ∧ t.chip.noiseMode = m ∧ t.chip.noiseRate = r ∧
      t.chip.noiseShiftRegister = noiseSeed)

/-- A `WRITE` reaches only the latch, the eight registers and, by a noise-control write alone, the shift register
(spec/20_memory.md R43; spec/40_register_write.md, preamble; 90_conflicts.md C5). -/
def Obligations.WriteReaches : Prop :=
  ∀ (s t : State) (b : Byte), s.apply (.write b) = .next t →
    t.chip.clock = s.chip.clock ∧ t.chip.noiseClock = s.chip.noiseClock ∧ t.chip.phase = s.chip.phase ∧
    t.chip.noiseBit = s.chip.noiseBit ∧ t.chip.panning = s.chip.panning ∧
    t.chip.sampleClockDivider = s.chip.sampleClockDivider ∧
    t.chip.currentSampleLeft = s.chip.currentSampleLeft ∧
    t.chip.currentSampleRight = s.chip.currentSampleRight ∧
    (t.chip.channelSelect ≠ 3 ∨ t.chip.volumeOrTone = true →
      t.chip.noiseShiftRegister = s.chip.noiseShiftRegister ∧ t.chip.noiseMode = s.chip.noiseMode ∧
      t.chip.noiseRate = s.chip.noiseRate) ∧
    (t.chip.channelSelect = 3 ∧ t.chip.volumeOrTone = false → t.chip.noiseShiftRegister = noiseSeed)

/-- Repeating a `WRITE`, `SETPAN` or `READ` at once changes nothing more (spec/20_memory.md R49). -/
def Obligations.ImmediateRepeatIsIdle : Prop :=
  ∀ (s t : State) (e : HostEvent), (∃ b, e = .write b ∨ e = .setpan b) ∨ e = .read →
    s.apply e = .next t → t.apply e = .next t

/-- After any sequence of `WRITE` events the programmable registers and the latch depend only on what they were
and the bytes written, not on the `ADVANCE` events between (spec/40_register_write.md R97). -/
def Obligations.WritesDetermineRegisters : Prop :=
  ∀ (s s' : State) (es es' : List HostEvent), s.usable = true → s'.usable = true →
    s.chip.programmed = s'.chip.programmed →
    (∀ e ∈ es, e = .advance ∨ ∃ b, e = .write b) → (∀ e ∈ es', e = .advance ∨ ∃ b, e = .write b) →
    es.filter (· != .advance) = es'.filter (· != .advance) →
    ∃ t t', s.applyAll es = .next t ∧ s'.applyAll es' = .next t' ∧ t.chip.programmed = t'.chip.programmed

/-! ### Panning, read, sample output -/

/-- `SETPAN p` replaces the whole mask, recomputes no sample and touches nothing else (R130). -/
def Obligations.SetpanReplacesMask : Prop :=
  ∀ (s : State) (p : Byte), s.usable = true →
    exec (.setpan p) s = .next { s with reply := none, chip := { s.chip with panning := p } }

/-- `READ` returns 0xFF and changes no element (R133). -/
def Obligations.ReadReturnsSentinel : Prop :=
  ∀ s : State, s.usable = true → exec .read s = .next { s with reply := some (.byte 0xFF) }

/-- The samples change only at a tick: every other event but `RESET` and `LOAD` leaves the pair alone
(spec/42_pan_read_sample.md R135; spec/70_reset_and_hazards.md R172). -/
def Obligations.SamplesChangeOnlyAtTicks : Prop :=
  ∀ (s t : State) (e : HostEvent), s.apply e = .next t → e ≠ .reset → (∀ img, e ≠ .load img) →
    (e = .advance → s.chip.sampleClockDivider ≠ 15) → t.sampleOutput = s.sampleOutput

/-! ### The clock step -/

/-- The divider counts pulses; every sixteenth makes one tick, and the first tick from divider `d` comes on pulse
`16 - d`; no event but `ADVANCE`, `RESET` and `LOAD` moves the divider (R101). -/
def Obligations.DividerMakesTicks : Prop :=
  (∀ s : State, s.usable = true →
    exec .advance s = .next { s with
      reply := none
      chip :=
        if s.chip.sampleClockDivider + 1 = 16 then (s.chip.setDivider 0).tick
        else { s.chip with sampleClockDivider := s.chip.sampleClockDivider + 1 } }) ∧
  (∀ (s : State) (n : Nat), s.usable = true → 1 ≤ n → s.chip.sampleClockDivider + n ≤ 15 →
    s.applyAll (advanceMany n) = .next { s with
      reply := none, chip := { s.chip with sampleClockDivider := s.chip.sampleClockDivider + n } }) ∧
  (∀ s : State, s.usable = true → s.chip.sampleClockDivider ≤ 15 →
    s.applyAll (advanceMany (16 - s.chip.sampleClockDivider)) = .next { s with
      reply := none, chip := (s.chip.setDivider 0).tick }) ∧
  (∀ (s t : State) (e : HostEvent), s.apply e = .next t → e ≠ .advance → e ≠ .reset → (∀ img, e ≠ .load img) →
    t.chip.sampleClockDivider = s.chip.sampleClockDivider)

/-- On the pulse that ticks, a tone counter that reaches zero inverts its phase and reloads `toneReload + 1`;
one that does not keeps its phase and its decremented count (R110). -/
def Obligations.ToneCountersOnTick : Prop :=
  ∀ s : State, s.usable = true → s.chip.sampleClockDivider = 15 →
    ∃ t, exec .advance s = .next t ∧ t.chip.sampleClockDivider = 0 ∧ ∀ k : ToneChannel,
      (s.chip.clock.get k - 1 = 0 →
        t.chip.phase.get k = (!s.chip.phase.get k) ∧
        t.chip.clock.get k = ((s.chip.toneReload.get k).toNat : Int) + 1) ∧
      (s.chip.clock.get k - 1 ≠ 0 →
        t.chip.phase.get k = s.chip.phase.get k ∧ t.chip.clock.get k = s.chip.clock.get k - 1)

/-- On the pulse that ticks, a noise counter that reaches zero samples bit 0 of the register, after the zero guard and
before the shift, into `noiseBit`, and reloads twice the divisor its rate selects; one that does not holds `noiseBit` and
its decremented count (spec/41_clock_step.md sections 2 and 3; decisions D17 and D19, log entries 11 and 14). -/
def Obligations.NoiseSampleAndReload : Prop :=
  ∀ s : State, s.usable = true → s.chip.sampleClockDivider = 15 →
    ∃ t, exec .advance s = .next t ∧
      (s.chip.noiseClock - 1 = 0 →
        t.chip.noiseBit =
          (if s.chip.noiseShiftRegister = 0 then noiseSeed else s.chip.noiseShiftRegister).getLsbD 0 ∧
        (s.chip.noiseRate = 0 → t.chip.noiseClock = 2 * 16) ∧
        (s.chip.noiseRate = 1 → t.chip.noiseClock = 2 * 32) ∧
        (s.chip.noiseRate = 2 → t.chip.noiseClock = 2 * 64) ∧
        (s.chip.noiseRate = 3 → t.chip.noiseClock = 2 * ((s.chip.toneReload.c.toNat : Int) + 1))) ∧
      (s.chip.noiseClock - 1 ≠ 0 →
        t.chip.noiseBit = s.chip.noiseBit ∧ t.chip.noiseClock = s.chip.noiseClock - 1)

/-- On a noise fire the register shifts right by one with the feedback entering at bit 14: bit 0 alone in periodic
mode, bit 0 xor bit 1 in LFSR mode; a zero register is reseeded first; without a fire it stays
(spec/41_clock_step.md section 3; decisions D1, D17, D19, log entries 12, 11 and 14).  The modes are named by `lfsrMode`;
the last two clauses say which value of `noiseMode` is which, decision D3 (log entry 3). -/
def Obligations.NoiseShiftOnFire : Prop :=
  ∀ s : State, s.usable = true → s.chip.sampleClockDivider = 15 →
    ∃ t, exec .advance s = .next t ∧
      (s.chip.noiseClock - 1 ≠ 0 → t.chip.noiseShiftRegister = s.chip.noiseShiftRegister) ∧
      (s.chip.noiseClock - 1 = 0 → ∀ x : Lfsr,
        x = (if s.chip.noiseShiftRegister = 0 then noiseSeed else s.chip.noiseShiftRegister) →
        (s.chip.lfsrMode = false → t.chip.noiseShiftRegister.getLsbD 14 = x.getLsbD 0) ∧
        (s.chip.lfsrMode = true → t.chip.noiseShiftRegister.getLsbD 14 = (x.getLsbD 0 ^^ x.getLsbD 1)) ∧
        (∀ i < 14, t.chip.noiseShiftRegister.getLsbD i = x.getLsbD (i + 1)) ∧
        (s.chip.noiseMode = true → t.chip.noiseShiftRegister.getLsbD 14 = (x.getLsbD 0 ^^ x.getLsbD 1)) ∧
        (s.chip.noiseMode = false → t.chip.noiseShiftRegister.getLsbD 14 = x.getLsbD 0))

/-- Every tick recomputes both samples from the volumes, the mask and the flags as the tick leaves them: channel
`c` reaches the left output by `panning[4+c]` and the right by `panning[c]`, an off or unrouted channel adds 0
(spec/41_clock_step.md section 5; decisions D4, D24; 90_conflicts.md C4). -/
def Obligations.MixOnTick : Prop :=
  ∀ s : State, s.usable = true → s.chip.sampleClockDivider = 15 →
    ∃ t, exec .advance s = .next t ∧
      t.chip.currentSampleLeft =
        (if t.chip.phase.a && s.chip.panning.getLsbD 4 then volEntry s.chip.volume.a * Config.mixScale else 0) +
        (if t.chip.phase.b && s.chip.panning.getLsbD 5 then volEntry s.chip.volume.b * Config.mixScale else 0) +
        (if t.chip.phase.c && s.chip.panning.getLsbD 6 then volEntry s.chip.volume.c * Config.mixScale else 0) +
        (if t.chip.noiseBit && s.chip.panning.getLsbD 7 then volEntry s.chip.volume.noise * Config.mixScale else 0) ∧
      t.chip.currentSampleRight =
        (if t.chip.phase.a && s.chip.panning.getLsbD 0 then volEntry s.chip.volume.a * Config.mixScale else 0) +
        (if t.chip.phase.b && s.chip.panning.getLsbD 1 then volEntry s.chip.volume.b * Config.mixScale else 0) +
        (if t.chip.phase.c && s.chip.panning.getLsbD 2 then volEntry s.chip.volume.c * Config.mixScale else 0) +
        (if t.chip.noiseBit && s.chip.panning.getLsbD 3 then volEntry s.chip.volume.noise * Config.mixScale else 0)

/-- `ADVANCE` writes no programmable register, no latch and no panning; between ticks it writes the divider alone
(spec/20_memory.md R43; spec/40_register_write.md R97). -/
def Obligations.AdvanceLeavesRegisters : Prop :=
  ∀ s t : State, exec .advance s = .next t →
    t.chip.programmed = s.chip.programmed ∧ t.chip.panning = s.chip.panning ∧
    t.usable = s.usable ∧ t.freeCount = s.freeCount ∧ t.events = s.events ∧ t.reply = none ∧
    (s.chip.sampleClockDivider ≠ 15 → { t.chip with sampleClockDivider := s.chip.sampleClockDivider } = s.chip)

/-- The volume table: sixteen entries, strictly decreasing, the last one 0 (R113). -/
def Obligations.VolumeTableEntries : Prop :=
  (List.ofFn fun v : Fin 16 => volEntry (BitVec.ofNat 4 v.val)) =
    [255, 203, 161, 128, 102, 86, 64, 51, 40, 32, 26, 20, 16, 13, 10, 0] ∧
  ∀ v w : VolIndex, v.toNat < w.toNat → volEntry w < volEntry v

/-- The noise fire and the tone fires commute, and so do two tone fires (spec/41_clock_step.md R112). -/
def Obligations.TickStepsCommute : Prop :=
  ∀ (c : ChipState) (j k : ToneChannel),
    (c.stepNoise).stepTone k = (c.stepTone k).stepNoise ∧ (c.stepTone j).stepTone k = (c.stepTone k).stepTone j

/-- A counter just reloaded from period `N` keeps its phase for `N` ticks and inverts it on tick `N + 1`; two such
half cycles make the full cycle of `32 * (N + 1)` pulses (spec/41_clock_step.md R116; 90_conflicts.md C6). -/
def Obligations.ToneHalfCycle : Prop :=
  ∀ (s : State) (k : ToneChannel) (n : Nat), s.usable = true → s.chip.sampleClockDivider = 0 →
    n = (s.chip.toneReload.get k).toNat → s.chip.clock.get k = (n : Int) + 1 →
    (∀ j ≤ n, ∃ t, s.applyAll (tickMany j) = .next t ∧ t.chip.phase.get k = s.chip.phase.get k ∧
      t.chip.clock.get k = (n : Int) + 1 - j) ∧
    (∃ t, s.applyAll (advanceMany (16 * (n + 1))) = .next t ∧ t.chip.phase.get k = (!s.chip.phase.get k) ∧
      t.chip.clock.get k = (n : Int) + 1 ∧ t.chip.sampleClockDivider = 0) ∧
    (∃ t, s.applyAll (advanceMany (32 * (n + 1))) = .next t ∧ t.chip.phase.get k = s.chip.phase.get k ∧
      t.chip.clock.get k = (n : Int) + 1 ∧ t.chip.sampleClockDivider = 0)

/-- Period 0 inverts the phase on every tick, period 1 on every second tick, and no period holds the output: a counter
at `m + 1` fires on tick `m + 1`, whatever its period (R111). -/
def Obligations.SmallPeriodsKeepRunning : Prop :=
  ∀ (s : State) (k : ToneChannel) (n : Nat), s.usable = true → s.chip.sampleClockDivider = 0 →
    (s.chip.toneReload.get k = 0 → s.chip.clock.get k = 1 →
      ∃ t, s.applyAll (tickMany n) = .next t ∧ t.chip.clock.get k = 1 ∧
        t.chip.phase.get k = (s.chip.phase.get k ^^ (n % 2 == 1))) ∧
    (s.chip.toneReload.get k = 1 → s.chip.clock.get k = 2 →
      ∃ t, s.applyAll (tickMany n) = .next t ∧ t.chip.phase.get k = (s.chip.phase.get k ^^ (n / 2 % 2 == 1))) ∧
    (∀ m : Nat, s.chip.clock.get k = (m : Int) + 1 →
      ∃ t, s.applyAll (tickMany (m + 1)) = .next t ∧ t.chip.phase.get k = (!s.chip.phase.get k) ∧
        t.chip.clock.get k = ((s.chip.toneReload.get k).toNat : Int) + 1)

/-- With its rate and the period of tone C unchanging, a noise counter just reloaded fires after exactly that many
ticks and not before, samples and shifts the register after its zero guard, and reloads the same value
(spec/41_clock_step.md section 3; spec/70_reset_and_hazards.md R180; decision D17, log entry 11). -/
def Obligations.NoiseFireInterval : Prop :=
  ∀ (s : State) (n : Nat), s.usable = true → s.chip.sampleClockDivider = 0 →
    n = (if s.chip.noiseRate = 0 then 32 else if s.chip.noiseRate = 1 then 64
         else if s.chip.noiseRate = 2 then 128 else 2 * (s.chip.toneReload.c.toNat + 1)) →
    s.chip.noiseClock = (n : Int) →
    (∀ j < n, ∃ t, s.applyAll (tickMany j) = .next t ∧ t.chip.noiseBit = s.chip.noiseBit ∧
      t.chip.noiseShiftRegister = s.chip.noiseShiftRegister) ∧
    (∃ t, s.applyAll (tickMany n) = .next t ∧
      t.chip.noiseClock = (n : Int) ∧
      ∀ x : Lfsr, x = (if s.chip.noiseShiftRegister = 0 then noiseSeed else s.chip.noiseShiftRegister) →
        t.chip.noiseBit = x.getLsbD 0 ∧ t.chip.noiseShiftRegister = noiseShift s.chip.noiseMode x)

/-- The shift is a bijection of the register values in both modes, and only 0 goes to 0
(spec/41_clock_step.md R109). -/
def Obligations.NoiseShiftIsBijective : Prop :=
  ∀ mode : Bool, Function.Bijective (noiseShift mode) ∧ ∀ x : Lfsr, noiseShift mode x = 0 ↔ x = 0

/-- In LFSR mode the register returns to the seed after exactly 32767 shifts and not before
(spec/41_clock_step.md R109; decisions D1, D2, D3). -/
def Obligations.LfsrModeFullPeriod : Prop :=
  (noiseShift lfsrModeValue)^[32767] noiseSeed = noiseSeed ∧
  ∀ n, 0 < n → n < 32767 → (noiseShift lfsrModeValue)^[n] noiseSeed ≠ noiseSeed

/-- In periodic mode every value returns after 15 shifts, and from the seed exactly the fifteenth of fifteen fires
samples 1 (spec/41_clock_step.md R109; decisions D1, D2, D3). -/
def Obligations.PeriodicModeCycle : Prop :=
  (∀ x : Lfsr, (noiseShift (!lfsrModeValue))^[15] x = x) ∧
  ∀ n, ((noiseShift (!lfsrModeValue))^[n] noiseSeed).getLsbD 0 = (n % 15 == 14)

/-- The sampled bits after a reseed: in both modes fourteen zeros and a one; the modes' bits agree through fire 28
and differ at fire 29, where LFSR mode samples 1 (spec/41_clock_step.md R121; 90_conflicts.md C11). -/
def Obligations.BitsAfterReseed : Prop :=
  (∀ (mode : Bool) (n : Fin 15),
    ((noiseShift mode)^[n.val] noiseSeed).getLsbD 0 = (n.val == 14)) ∧
  (∀ n : Fin 28, ((noiseShift lfsrModeValue)^[n.val] noiseSeed).getLsbD 0 =
    ((noiseShift (!lfsrModeValue))^[n.val] noiseSeed).getLsbD 0) ∧
  ((noiseShift lfsrModeValue)^[28] noiseSeed).getLsbD 0 = true ∧
  ((noiseShift (!lfsrModeValue))^[28] noiseSeed).getLsbD 0 = false

/-- A channel at volume 15 adds nothing, whatever its phase or noise bit and its panning bits: changing them changes
neither sample of the next tick (spec/41_clock_step.md R115 (a)). -/
def Obligations.SilentChannelAddsNothing : Prop :=
  ∀ (s : State) (b : Bool) (p : Byte), s.usable = true → s.chip.sampleClockDivider = 15 →
    (∀ k : ToneChannel, s.chip.volume.get k.toChannel = 15 →
      (∀ i < 8, i ≠ k.index.toNat → i ≠ 4 + k.index.toNat → p.getLsbD i = s.chip.panning.getLsbD i) →
      ∃ t u, exec .advance s = .next t ∧
        exec .advance { s with chip := { s.chip with phase := s.chip.phase.set k b, panning := p } } = .next u ∧
        t.sampleOutput = u.sampleOutput) ∧
    (s.chip.volume.noise = 15 →
      (∀ i < 8, i ≠ 3 → i ≠ 7 → p.getLsbD i = s.chip.panning.getLsbD i) →
      ∃ t u, exec .advance s = .next t ∧
        exec .advance { s with chip := { s.chip with noiseBit := b, panning := p } } = .next u ∧
        t.sampleOutput = u.sampleOutput)

/-- With the mask at 0 both samples are 0 after a tick, whatever the registers (spec/41_clock_step.md R115 (b)). -/
def Obligations.EmptyMaskMutes : Prop :=
  ∀ s : State, s.usable = true → s.chip.sampleClockDivider = 15 → s.chip.panning = 0 →
    ∃ t, exec .advance s = .next t ∧ t.sampleOutput = (0, 0)

/-- The left sample depends only on the mask's upper half and the right only on its lower half
(spec/41_clock_step.md R115 (d)). -/
def Obligations.SidesAreIndependent : Prop :=
  ∀ (s : State) (p : Byte), s.usable = true → s.chip.sampleClockDivider = 15 →
    ∃ t u, exec .advance s = .next t ∧
      exec .advance { s with chip := { s.chip with panning := p } } = .next u ∧
      (p.extractLsb' 4 4 = s.chip.panning.extractLsb' 4 4 →
        u.chip.currentSampleLeft = t.chip.currentSampleLeft) ∧
      (p.extractLsb' 0 4 = s.chip.panning.extractLsb' 0 4 →
        u.chip.currentSampleRight = t.chip.currentSampleRight)

/-- With every volume at 0, every channel on and every route enabled, each output is `1020 * MIX_SCALE`
(spec/41_clock_step.md R115 (c)). -/
def Obligations.LoudestSample : Prop :=
  ∀ s t : State, s.chip.sampleClockDivider = 15 → s.chip.volume = ⟨0, 0, 0, 0⟩ → s.chip.panning = 0xFF →
    exec .advance s = .next t → t.chip.phase = ⟨true, true, true⟩ → t.chip.noiseBit = true →
    t.sampleOutput = (1020 * Config.mixScale, 1020 * Config.mixScale)

/-- A tick between the latch write and the data write of a period reloads from the new low nibble with the old high
bits (spec/20_memory.md R46; spec/70_reset_and_hazards.md R171). -/
def Obligations.LatchToDataWindow : Prop :=
  ∀ (s : State) (k : ToneChannel) (d : BitVec 4), s.usable = true → s.chip.sampleClockDivider = 15 →
    s.chip.clock.get k = 1 →
    ∃ t, s.applyAll [.write (latchByte k.index false d), .advance] = .next t ∧
      t.chip.clock.get k = (((s.chip.toneReload.get k).extractLsb' 4 6 ++ d).toNat : Int) + 1

/-! ### Reset, save and load -/

/-- `RESET` installs the reset record from every state, the unusable one included, and the machine starts in it;
only the seed's presence is the source's (spec/10_state.md R17), every other value is the spec's own decision D6 to
D13, and that `RESET` may come at any time is D14 (log entry 4). -/
def Obligations.ResetInstallsRecord : Prop :=
  ∀ s : State,
    exec .reset s = .next { s with reply := none, usable := true, chip := State.reset.chip } ∧
    State.reset.chip =
      { volume := ⟨15, 15, 15, 15⟩, toneReload := ⟨0, 0, 0⟩, channelSelect := 0, volumeOrTone := false,
        noiseMode := false, noiseRate := 0, noiseShiftRegister := noiseSeed, clock := ⟨1, 1, 1⟩,
        noiseClock := 32, phase := ⟨false, false, false⟩, noiseBit := false, panning := 0xFF,
        sampleClockDivider := 0, currentSampleLeft := 0, currentSampleRight := 0 }

/-- What the block does after reset if the host only sends pulses: the first tick on pulse 16 turns every phase on,
the first noise fire on pulse 512 samples 0, and the samples stay 0 for ever (spec/70_reset_and_hazards.md R162;
decisions D6 to D13, log entry 4; what the fire samples and leaves rests on the seed, decision D2, log entry 2). -/
def Obligations.AfterResetUntouched : Prop :=
  (∀ n, ∃ t, State.reset.applyAll (advanceMany n) = .next t ∧ t.sampleOutput = (0, 0)) ∧
  (∃ t, State.reset.applyAll (advanceMany 16) = .next t ∧ t.chip.phase = ⟨true, true, true⟩ ∧
    t.chip.clock = ⟨1, 1, 1⟩ ∧ t.chip.noiseClock = 31) ∧
  (∃ t, State.reset.applyAll (advanceMany 512) = .next t ∧ t.chip.noiseBit = false ∧
    t.chip.noiseShiftRegister = 0x2000 ∧ t.chip.noiseClock = 32 ∧ t.chip.phase = ⟨false, false, false⟩)

/-- `SAVE` returns the value of every element and changes none (R145). -/
def Obligations.SaveReturnsEveryElement : Prop :=
  ∀ s : State, s.usable = true →
    ∃ img, exec .save s = .next { s with reply := some (.image img) } ∧
      img =
        { balanced := true
          volume := some [↑s.chip.volume.a.toNat, ↑s.chip.volume.b.toNat, ↑s.chip.volume.c.toNat,
            ↑s.chip.volume.noise.toNat]
          toneReload := some [↑s.chip.toneReload.a.toNat, ↑s.chip.toneReload.b.toNat, ↑s.chip.toneReload.c.toNat]
          channelSelect := some ↑s.chip.channelSelect.toNat
          volumeOrTone := some s.chip.volumeOrTone
          noiseMode := some s.chip.noiseMode
          noiseRate := some ↑s.chip.noiseRate.toNat
          noiseShiftRegister := some ↑s.chip.noiseShiftRegister.toNat
          clock := some [s.chip.clock.a, s.chip.clock.b, s.chip.clock.c]
          noiseClock := some s.chip.noiseClock
          phase := some [s.chip.phase.a, s.chip.phase.b, s.chip.phase.c]
          noiseBit := some s.chip.noiseBit
          panning := some ↑s.chip.panning.toNat
          sampleClockDivider := some ↑s.chip.sampleClockDivider
          currentSampleLeft := some ↑s.chip.currentSampleLeft
          currentSampleRight := some ↑s.chip.currentSampleRight }

/-- An accepted image overwrites every element with its value, from every state, and a zero shift register is
repaired (spec/60_exceptions.md sections 1 and 5; decision D17, log entry 11). -/
def Obligations.LoadOverwritesEveryElement : Prop :=
  ∀ (s : State) (img : Image) (v : ImageValues), img.values? = some v → v.inRange = true →
    ∃ t, exec (.load img) s = .next t ∧ t.usable = true ∧ t.reply = none ∧ t.events = s.events ∧ t.freeCount = s.freeCount ∧
      (∀ k, ((t.chip.volume.get k).toNat : Int) = v.volume.get k) ∧
      (∀ k, ((t.chip.toneReload.get k).toNat : Int) = v.toneReload.get k) ∧
      (t.chip.channelSelect.toNat : Int) = v.channelSelect ∧ t.chip.volumeOrTone = v.volumeOrTone ∧
      t.chip.noiseMode = v.noiseMode ∧ (t.chip.noiseRate.toNat : Int) = v.noiseRate ∧
      (v.noiseShiftRegister ≠ 0 → (t.chip.noiseShiftRegister.toNat : Int) = v.noiseShiftRegister) ∧
      (v.noiseShiftRegister = 0 → t.chip.noiseShiftRegister = noiseSeed) ∧
      t.chip.clock = v.clock ∧ t.chip.noiseClock = v.noiseClock ∧ t.chip.phase = v.phase ∧
      t.chip.noiseBit = v.noiseBit ∧ (t.chip.panning.toNat : Int) = v.panning ∧
      (t.chip.sampleClockDivider : Int) = v.sampleClockDivider ∧
      (t.chip.currentSampleLeft : Int) = v.currentSampleLeft ∧
      (t.chip.currentSampleRight : Int) = v.currentSampleRight

/-- A malformed image (a value missing, an array of the wrong length, unbalanced nesting) fails the whole load: the
host is told and the state is unusable, whatever its elements now are (spec/60_exceptions.md sections 1 and 5;
decision D20, U7, log entry 7). -/
def Obligations.MalformedLoadRaises : Prop :=
  ∀ (s : State) (img : Image),
    (img.balanced = false ∨ (∀ xs, img.volume = some xs → xs.length ≠ 4) ∨
      (∀ xs, img.toneReload = some xs → xs.length ≠ 3) ∨ img.channelSelect = none ∨ img.volumeOrTone = none ∨
      img.noiseMode = none ∨ img.noiseRate = none ∨ img.noiseShiftRegister = none ∨
      (∀ xs, img.clock = some xs → xs.length ≠ 3) ∨ img.noiseClock = none ∨
      (∀ xs, img.phase = some xs → xs.length ≠ 3) ∨ img.noiseBit = none ∨ img.panning = none ∨
      img.sampleClockDivider = none ∨ img.currentSampleLeft = none ∨ img.currentSampleRight = none) →
    ∃ t, exec (.load img) s = .next t ∧ t.usable = false ∧ t.reply = some .stateCorruption ∧ t.events = s.events

/-- In the unusable state every event but `RESET` and `LOAD` is refused (spec/60_exceptions.md section 4; decision
D20, U7). -/
def Obligations.UnusableStateRefuses : Prop :=
  ∀ (s : State) (e : HostEvent), s.usable = false → e ≠ .reset → (∀ img, e ≠ .load img) →
    s.apply e = .refused .unusableState

/-- An image that is not malformed but breaks I1 or I3 to I8, or is wider than a register, is refused
(spec/60_exceptions.md R148; decision D18). -/
def Obligations.ImageOutsideInvariantsRefused : Prop :=
  ∀ (s : State) (img : Image) (v : ImageValues), img.values? = some v →
    ¬ ((∀ k, 0 ≤ v.volume.get k ∧ v.volume.get k ≤ 15) ∧ (∀ k, 0 ≤ v.toneReload.get k ∧ v.toneReload.get k ≤ 1023) ∧
       (0 ≤ v.channelSelect ∧ v.channelSelect ≤ 3) ∧ (0 ≤ v.noiseRate ∧ v.noiseRate ≤ 3) ∧
       (0 ≤ v.noiseShiftRegister ∧ v.noiseShiftRegister < 2 ^ 15) ∧
       (∀ k, 1 ≤ v.clock.get k ∧ v.clock.get k ≤ 1024) ∧ (1 ≤ v.noiseClock ∧ v.noiseClock ≤ 2048) ∧
       (0 ≤ v.panning ∧ v.panning ≤ 255) ∧ (0 ≤ v.sampleClockDivider ∧ v.sampleClockDivider ≤ 15) ∧
       (0 ≤ v.currentSampleLeft ∧ v.currentSampleLeft ≤ 1020 * Config.mixScale) ∧
       (0 ≤ v.currentSampleRight ∧ v.currentSampleRight ≤ 1020 * Config.mixScale)) →
    exec (.load img) s = .refused .imageOutsideInvariants

/-- The same image inside the invariants is accepted, so the precondition of `LOAD` is exactly the list of
`ImageOutsideInvariantsRefused` (spec/60_exceptions.md R148; decision D18). -/
def Obligations.ImageInsideInvariantsAccepted : Prop :=
  ∀ (s : State) (img : Image) (v : ImageValues), img.values? = some v →
    (∀ k, 0 ≤ v.volume.get k ∧ v.volume.get k ≤ 15) → (∀ k, 0 ≤ v.toneReload.get k ∧ v.toneReload.get k ≤ 1023) →
    0 ≤ v.channelSelect ∧ v.channelSelect ≤ 3 → 0 ≤ v.noiseRate ∧ v.noiseRate ≤ 3 →
    0 ≤ v.noiseShiftRegister ∧ v.noiseShiftRegister < 2 ^ 15 →
    (∀ k, 1 ≤ v.clock.get k ∧ v.clock.get k ≤ 1024) → 1 ≤ v.noiseClock ∧ v.noiseClock ≤ 2048 →
    0 ≤ v.panning ∧ v.panning ≤ 255 → 0 ≤ v.sampleClockDivider ∧ v.sampleClockDivider ≤ 15 →
    0 ≤ v.currentSampleLeft ∧ v.currentSampleLeft ≤ 1020 * Config.mixScale →
    0 ≤ v.currentSampleRight ∧ v.currentSampleRight ≤ 1020 * Config.mixScale →
    ∃ t, exec (.load img) s = .next t ∧ t.usable = true ∧ t.chip.Inv

/-- Saving a state that satisfies the invariants and loading the image into any block gives the same elements back,
and every later sequence of events, loads of acceptable images included, ends in the same elements (R152). -/
def Obligations.SaveLoadRoundTrip : Prop :=
  ∀ s t : State, s.usable = true → s.chip.Inv →
    ∃ s₁ img t₁, exec .save s = .next s₁ ∧ s₁.reply = some (.image img) ∧ s₁.chip = s.chip ∧
      exec (.load img) t = .next t₁ ∧ t₁.chip = s.chip ∧ t₁.usable = true ∧
      ∀ es : List HostEvent, (∀ img', .load img' ∈ es → img'.acceptable = true) →
        ∃ s₂ t₂, s₁.applyAll es = .next s₂ ∧ t₁.applyAll es = .next t₂ ∧ t₂.chip = s₂.chip ∧
          t₂.sampleOutput = s₂.sampleOutput

/-! ### Invariants -/

/-- The reset state satisfies the invariants (spec/10_state.md R28). -/
def Obligations.ResetSatisfiesInvariants : Prop := State.reset.usable = true ∧ State.reset.chip.Inv

/-- Every step keeps the invariants, from every state that satisfies them: a usable state satisfies I1 to I8, and no
event, `LOAD` included, can break that (spec/10_state.md R27, R28; spec/60_exceptions.md R146 to R148). -/
def Obligations.StepKeepsInvariants : Prop :=
  ∀ s t : State, s.Inv → step s = .next t → t.Inv

/-! ### The platform's address map -/

/-- Under a port map whose two store ports differ, an access to a port is its event and any other access is none of
the block's (spec/20_memory.md R44; decision D15, log entry 6). -/
def Obligations.PortMapSelectsEvents : Prop :=
  ∀ (pm : PortMap) (addr : Nat) (b : Byte), pm.wellFormed = true →
    pm.resolve (.store pm.writePort b) = some (.write b) ∧ pm.resolve (.store pm.panPort b) = some (.setpan b) ∧
    pm.resolve (.fetch pm.readPort) = some .read ∧
    (addr ≠ pm.writePort → addr ≠ pm.panPort → pm.resolve (.store addr b) = none) ∧
    (addr ≠ pm.readPort → pm.resolve (.fetch addr) = none)
end

