-- ==== Sys2Proof/Laws/Decode.lean ====
section
/-! SUPPORT. The fields of an encoded byte, and what decoding a latch or a data byte reads. -/

namespace Sys2Proof

open Machine

@[simp] theorem isLatch_latchByte (cc : BitVec 2) (t : Bool) (d : BitVec 4) : isLatch (latchByte cc t d) = true := by
  revert cc t d; decide

@[simp] theorem fieldT_latchByte (cc : BitVec 2) (t : Bool) (d : BitVec 4) : fieldT (latchByte cc t d) = t := by
  revert cc t d; decide

@[simp] theorem fieldD_append (x : BitVec 4) (d : BitVec 4) : fieldD (x ++ d) = d := by
  revert x d; decide

@[simp] theorem fieldD_latchByte (cc : BitVec 2) (t : Bool) (d : BitVec 4) : fieldD (latchByte cc t d) = d := by
  revert cc t d; decide

@[simp] theorem fieldCc_latchByte (cc : BitVec 2) (t : Bool) (d : BitVec 4) : fieldCc (latchByte cc t d) = cc := by
  revert cc t d; decide

@[simp] theorem fieldM_noise (x : BitVec 4) (m : Bool) (r : BitVec 2) : fieldM (x ++ noiseNibble m r : Byte) = m := by
  revert x m r; decide

@[simp] theorem fieldR_noise (x : BitVec 4) (m : Bool) (r : BitVec 2) : fieldR (x ++ noiseNibble m r : Byte) = r := by
  revert x m r; decide

@[simp] theorem fieldH_append (x : BitVec 2) (h : BitVec 6) : fieldH (x ++ h : Byte) = h := by
  revert x h; decide

/-- A latch byte decodes without state (R69). -/
theorem decodeWrite_latch (q : BitVec 2) (v : Bool) {b : Byte} (h : isLatch b = true) :
    decodeWrite q v b = decodeLatch b := by
  simp [decodeWrite, h]

/-- A data byte is read by the latch (R69). -/
theorem decodeWrite_data (q : BitVec 2) (v : Bool) {b : Byte} (h : isLatch b = false) :
    decodeWrite q v b = decodeData q v b := by
  simp [decodeWrite, h]

/-- A port map's three ports resolve to their events when the store ports differ (R44). -/
theorem PortMap_resolve_panPort {pm : PortMap} (h : pm.wellFormed = true) (b : Byte) :
    pm.resolve (.store pm.panPort b) = some (.setpan b) := by
  have hne : pm.panPort ≠ pm.writePort := by
    intro e
    simp [PortMap.wellFormed, e] at h
  simp [PortMap.resolve, hne]

end Sys2Proof
end

