-- ==== Sys2Proof/Laws/State.lean ====
section
/-! SUPPORT. One lemma per field per update of the state, each true by unfolding the update once, so that no
proof unfolds a record update.  First the host interface's fields, then the fifteen elements. -/

namespace Sys2Proof.Machine

section Interface

variable (s : State) (c : ChipState) (b : Byte)

@[simp] theorem State.install_chip : (s.install c).chip = c := rfl
@[simp] theorem State.install_usable : (s.install c).usable = true := rfl
@[simp] theorem State.install_freeCount : (s.install c).freeCount = s.freeCount := rfl
@[simp] theorem State.install_reply : (s.install c).reply = none := rfl
@[simp] theorem State.install_events : (s.install c).events = s.events := rfl
@[simp] theorem State.raiseStateCorruption_chip : s.raiseStateCorruption.chip = Config.freeChip s.freeCount := rfl
@[simp] theorem State.raiseStateCorruption_usable : s.raiseStateCorruption.usable = false := rfl
@[simp] theorem State.raiseStateCorruption_freeCount : s.raiseStateCorruption.freeCount = s.freeCount + 1 := rfl
@[simp] theorem State.raiseStateCorruption_reply : s.raiseStateCorruption.reply = some .stateCorruption := rfl
@[simp] theorem State.raiseStateCorruption_events : s.raiseStateCorruption.events = s.events := rfl
@[simp] theorem State.presentByte_chip : (s.presentByte b).chip = s.chip := rfl
@[simp] theorem State.presentByte_usable : (s.presentByte b).usable = s.usable := rfl
@[simp] theorem State.presentByte_freeCount : (s.presentByte b).freeCount = s.freeCount := rfl
@[simp] theorem State.presentByte_reply : (s.presentByte b).reply = s.reply := rfl
@[simp] theorem State.presentByte_events : (s.presentByte b).events = .write b :: s.events := rfl

end Interface

section Elements

variable (c : ChipState)

@[simp] theorem ChipState.latch_volume (q : BitVec 2) (m : Bool) :
    (c.latch q m).volume = c.volume := rfl
@[simp] theorem ChipState.latch_toneReload (q : BitVec 2) (m : Bool) :
    (c.latch q m).toneReload = c.toneReload := rfl
@[simp] theorem ChipState.latch_channelSelect (q : BitVec 2) (m : Bool) :
    (c.latch q m).channelSelect = q := rfl
@[simp] theorem ChipState.latch_volumeOrTone (q : BitVec 2) (m : Bool) :
    (c.latch q m).volumeOrTone = m := rfl
@[simp] theorem ChipState.latch_noiseMode (q : BitVec 2) (m : Bool) :
    (c.latch q m).noiseMode = c.noiseMode := rfl
@[simp] theorem ChipState.latch_noiseRate (q : BitVec 2) (m : Bool) :
    (c.latch q m).noiseRate = c.noiseRate := rfl
@[simp] theorem ChipState.latch_noiseShiftRegister (q : BitVec 2) (m : Bool) :
    (c.latch q m).noiseShiftRegister = c.noiseShiftRegister := rfl
@[simp] theorem ChipState.latch_clock (q : BitVec 2) (m : Bool) :
    (c.latch q m).clock = c.clock := rfl
@[simp] theorem ChipState.latch_noiseClock (q : BitVec 2) (m : Bool) :
    (c.latch q m).noiseClock = c.noiseClock := rfl
@[simp] theorem ChipState.latch_phase (q : BitVec 2) (m : Bool) :
    (c.latch q m).phase = c.phase := rfl
@[simp] theorem ChipState.latch_noiseBit (q : BitVec 2) (m : Bool) :
    (c.latch q m).noiseBit = c.noiseBit := rfl
@[simp] theorem ChipState.latch_panning (q : BitVec 2) (m : Bool) :
    (c.latch q m).panning = c.panning := rfl
@[simp] theorem ChipState.latch_sampleClockDivider (q : BitVec 2) (m : Bool) :
    (c.latch q m).sampleClockDivider = c.sampleClockDivider := rfl
@[simp] theorem ChipState.latch_currentSampleLeft (q : BitVec 2) (m : Bool) :
    (c.latch q m).currentSampleLeft = c.currentSampleLeft := rfl
@[simp] theorem ChipState.latch_currentSampleRight (q : BitVec 2) (m : Bool) :
    (c.latch q m).currentSampleRight = c.currentSampleRight := rfl

@[simp] theorem ChipState.writeVolume_volume (k : Channel) (d : BitVec 4) :
    (c.writeVolume k d).volume = c.volume.set k d := rfl
@[simp] theorem ChipState.writeVolume_toneReload (k : Channel) (d : BitVec 4) :
    (c.writeVolume k d).toneReload = c.toneReload := rfl
@[simp] theorem ChipState.writeVolume_channelSelect (k : Channel) (d : BitVec 4) :
    (c.writeVolume k d).channelSelect = c.channelSelect := rfl
@[simp] theorem ChipState.writeVolume_volumeOrTone (k : Channel) (d : BitVec 4) :
    (c.writeVolume k d).volumeOrTone = c.volumeOrTone := rfl
@[simp] theorem ChipState.writeVolume_noiseMode (k : Channel) (d : BitVec 4) :
    (c.writeVolume k d).noiseMode = c.noiseMode := rfl
@[simp] theorem ChipState.writeVolume_noiseRate (k : Channel) (d : BitVec 4) :
    (c.writeVolume k d).noiseRate = c.noiseRate := rfl
@[simp] theorem ChipState.writeVolume_noiseShiftRegister (k : Channel) (d : BitVec 4) :
    (c.writeVolume k d).noiseShiftRegister = c.noiseShiftRegister := rfl
@[simp] theorem ChipState.writeVolume_clock (k : Channel) (d : BitVec 4) :
    (c.writeVolume k d).clock = c.clock := rfl
@[simp] theorem ChipState.writeVolume_noiseClock (k : Channel) (d : BitVec 4) :
    (c.writeVolume k d).noiseClock = c.noiseClock := rfl
@[simp] theorem ChipState.writeVolume_phase (k : Channel) (d : BitVec 4) :
    (c.writeVolume k d).phase = c.phase := rfl
@[simp] theorem ChipState.writeVolume_noiseBit (k : Channel) (d : BitVec 4) :
    (c.writeVolume k d).noiseBit = c.noiseBit := rfl
@[simp] theorem ChipState.writeVolume_panning (k : Channel) (d : BitVec 4) :
    (c.writeVolume k d).panning = c.panning := rfl
@[simp] theorem ChipState.writeVolume_sampleClockDivider (k : Channel) (d : BitVec 4) :
    (c.writeVolume k d).sampleClockDivider = c.sampleClockDivider := rfl
@[simp] theorem ChipState.writeVolume_currentSampleLeft (k : Channel) (d : BitVec 4) :
    (c.writeVolume k d).currentSampleLeft = c.currentSampleLeft := rfl
@[simp] theorem ChipState.writeVolume_currentSampleRight (k : Channel) (d : BitVec 4) :
    (c.writeVolume k d).currentSampleRight = c.currentSampleRight := rfl

@[simp] theorem ChipState.writeToneLow_volume (k : ToneChannel) (d : BitVec 4) :
    (c.writeToneLow k d).volume = c.volume := rfl
@[simp] theorem ChipState.writeToneLow_toneReload (k : ToneChannel) (d : BitVec 4) :
    (c.writeToneLow k d).toneReload = c.toneReload.set k (Period.withLow (c.toneReload.get k) d) := rfl
@[simp] theorem ChipState.writeToneLow_channelSelect (k : ToneChannel) (d : BitVec 4) :
    (c.writeToneLow k d).channelSelect = c.channelSelect := rfl
@[simp] theorem ChipState.writeToneLow_volumeOrTone (k : ToneChannel) (d : BitVec 4) :
    (c.writeToneLow k d).volumeOrTone = c.volumeOrTone := rfl
@[simp] theorem ChipState.writeToneLow_noiseMode (k : ToneChannel) (d : BitVec 4) :
    (c.writeToneLow k d).noiseMode = c.noiseMode := rfl
@[simp] theorem ChipState.writeToneLow_noiseRate (k : ToneChannel) (d : BitVec 4) :
    (c.writeToneLow k d).noiseRate = c.noiseRate := rfl
@[simp] theorem ChipState.writeToneLow_noiseShiftRegister (k : ToneChannel) (d : BitVec 4) :
    (c.writeToneLow k d).noiseShiftRegister = c.noiseShiftRegister := rfl
@[simp] theorem ChipState.writeToneLow_clock (k : ToneChannel) (d : BitVec 4) :
    (c.writeToneLow k d).clock = c.clock := rfl
@[simp] theorem ChipState.writeToneLow_noiseClock (k : ToneChannel) (d : BitVec 4) :
    (c.writeToneLow k d).noiseClock = c.noiseClock := rfl
@[simp] theorem ChipState.writeToneLow_phase (k : ToneChannel) (d : BitVec 4) :
    (c.writeToneLow k d).phase = c.phase := rfl
@[simp] theorem ChipState.writeToneLow_noiseBit (k : ToneChannel) (d : BitVec 4) :
    (c.writeToneLow k d).noiseBit = c.noiseBit := rfl
@[simp] theorem ChipState.writeToneLow_panning (k : ToneChannel) (d : BitVec 4) :
    (c.writeToneLow k d).panning = c.panning := rfl
@[simp] theorem ChipState.writeToneLow_sampleClockDivider (k : ToneChannel) (d : BitVec 4) :
    (c.writeToneLow k d).sampleClockDivider = c.sampleClockDivider := rfl
@[simp] theorem ChipState.writeToneLow_currentSampleLeft (k : ToneChannel) (d : BitVec 4) :
    (c.writeToneLow k d).currentSampleLeft = c.currentSampleLeft := rfl
@[simp] theorem ChipState.writeToneLow_currentSampleRight (k : ToneChannel) (d : BitVec 4) :
    (c.writeToneLow k d).currentSampleRight = c.currentSampleRight := rfl

@[simp] theorem ChipState.writeToneHigh_volume (k : ToneChannel) (h : BitVec 6) :
    (c.writeToneHigh k h).volume = c.volume := rfl
@[simp] theorem ChipState.writeToneHigh_toneReload (k : ToneChannel) (h : BitVec 6) :
    (c.writeToneHigh k h).toneReload = c.toneReload.set k (Period.withHigh (c.toneReload.get k) h) := rfl
@[simp] theorem ChipState.writeToneHigh_channelSelect (k : ToneChannel) (h : BitVec 6) :
    (c.writeToneHigh k h).channelSelect = c.channelSelect := rfl
@[simp] theorem ChipState.writeToneHigh_volumeOrTone (k : ToneChannel) (h : BitVec 6) :
    (c.writeToneHigh k h).volumeOrTone = c.volumeOrTone := rfl
@[simp] theorem ChipState.writeToneHigh_noiseMode (k : ToneChannel) (h : BitVec 6) :
    (c.writeToneHigh k h).noiseMode = c.noiseMode := rfl
@[simp] theorem ChipState.writeToneHigh_noiseRate (k : ToneChannel) (h : BitVec 6) :
    (c.writeToneHigh k h).noiseRate = c.noiseRate := rfl
@[simp] theorem ChipState.writeToneHigh_noiseShiftRegister (k : ToneChannel) (h : BitVec 6) :
    (c.writeToneHigh k h).noiseShiftRegister = c.noiseShiftRegister := rfl
@[simp] theorem ChipState.writeToneHigh_clock (k : ToneChannel) (h : BitVec 6) :
    (c.writeToneHigh k h).clock = c.clock := rfl
@[simp] theorem ChipState.writeToneHigh_noiseClock (k : ToneChannel) (h : BitVec 6) :
    (c.writeToneHigh k h).noiseClock = c.noiseClock := rfl
@[simp] theorem ChipState.writeToneHigh_phase (k : ToneChannel) (h : BitVec 6) :
    (c.writeToneHigh k h).phase = c.phase := rfl
@[simp] theorem ChipState.writeToneHigh_noiseBit (k : ToneChannel) (h : BitVec 6) :
    (c.writeToneHigh k h).noiseBit = c.noiseBit := rfl
@[simp] theorem ChipState.writeToneHigh_panning (k : ToneChannel) (h : BitVec 6) :
    (c.writeToneHigh k h).panning = c.panning := rfl
@[simp] theorem ChipState.writeToneHigh_sampleClockDivider (k : ToneChannel) (h : BitVec 6) :
    (c.writeToneHigh k h).sampleClockDivider = c.sampleClockDivider := rfl
@[simp] theorem ChipState.writeToneHigh_currentSampleLeft (k : ToneChannel) (h : BitVec 6) :
    (c.writeToneHigh k h).currentSampleLeft = c.currentSampleLeft := rfl
@[simp] theorem ChipState.writeToneHigh_currentSampleRight (k : ToneChannel) (h : BitVec 6) :
    (c.writeToneHigh k h).currentSampleRight = c.currentSampleRight := rfl

@[simp] theorem ChipState.noiseControl_volume (m : Bool) (r : BitVec 2) :
    (c.noiseControl m r).volume = c.volume := rfl
@[simp] theorem ChipState.noiseControl_toneReload (m : Bool) (r : BitVec 2) :
    (c.noiseControl m r).toneReload = c.toneReload := rfl
@[simp] theorem ChipState.noiseControl_channelSelect (m : Bool) (r : BitVec 2) :
    (c.noiseControl m r).channelSelect = c.channelSelect := rfl
@[simp] theorem ChipState.noiseControl_volumeOrTone (m : Bool) (r : BitVec 2) :
    (c.noiseControl m r).volumeOrTone = c.volumeOrTone := rfl
@[simp] theorem ChipState.noiseControl_noiseMode (m : Bool) (r : BitVec 2) :
    (c.noiseControl m r).noiseMode = m := rfl
@[simp] theorem ChipState.noiseControl_noiseRate (m : Bool) (r : BitVec 2) :
    (c.noiseControl m r).noiseRate = r := rfl
@[simp] theorem ChipState.noiseControl_noiseShiftRegister (m : Bool) (r : BitVec 2) :
    (c.noiseControl m r).noiseShiftRegister = noiseSeed := rfl
@[simp] theorem ChipState.noiseControl_clock (m : Bool) (r : BitVec 2) :
    (c.noiseControl m r).clock = c.clock := rfl
@[simp] theorem ChipState.noiseControl_noiseClock (m : Bool) (r : BitVec 2) :
    (c.noiseControl m r).noiseClock = c.noiseClock := rfl
@[simp] theorem ChipState.noiseControl_phase (m : Bool) (r : BitVec 2) :
    (c.noiseControl m r).phase = c.phase := rfl
@[simp] theorem ChipState.noiseControl_noiseBit (m : Bool) (r : BitVec 2) :
    (c.noiseControl m r).noiseBit = c.noiseBit := rfl
@[simp] theorem ChipState.noiseControl_panning (m : Bool) (r : BitVec 2) :
    (c.noiseControl m r).panning = c.panning := rfl
@[simp] theorem ChipState.noiseControl_sampleClockDivider (m : Bool) (r : BitVec 2) :
    (c.noiseControl m r).sampleClockDivider = c.sampleClockDivider := rfl
@[simp] theorem ChipState.noiseControl_currentSampleLeft (m : Bool) (r : BitVec 2) :
    (c.noiseControl m r).currentSampleLeft = c.currentSampleLeft := rfl
@[simp] theorem ChipState.noiseControl_currentSampleRight (m : Bool) (r : BitVec 2) :
    (c.noiseControl m r).currentSampleRight = c.currentSampleRight := rfl

@[simp] theorem ChipState.decrementAll_volume :
    c.decrementAll.volume = c.volume := rfl
@[simp] theorem ChipState.decrementAll_toneReload :
    c.decrementAll.toneReload = c.toneReload := rfl
@[simp] theorem ChipState.decrementAll_channelSelect :
    c.decrementAll.channelSelect = c.channelSelect := rfl
@[simp] theorem ChipState.decrementAll_volumeOrTone :
    c.decrementAll.volumeOrTone = c.volumeOrTone := rfl
@[simp] theorem ChipState.decrementAll_noiseMode :
    c.decrementAll.noiseMode = c.noiseMode := rfl
@[simp] theorem ChipState.decrementAll_noiseRate :
    c.decrementAll.noiseRate = c.noiseRate := rfl
@[simp] theorem ChipState.decrementAll_noiseShiftRegister :
    c.decrementAll.noiseShiftRegister = c.noiseShiftRegister := rfl
@[simp] theorem ChipState.decrementAll_clock :
    c.decrementAll.clock = c.clock.map (· - 1) := rfl
@[simp] theorem ChipState.decrementAll_noiseClock :
    c.decrementAll.noiseClock = c.noiseClock - 1 := rfl
@[simp] theorem ChipState.decrementAll_phase :
    c.decrementAll.phase = c.phase := rfl
@[simp] theorem ChipState.decrementAll_noiseBit :
    c.decrementAll.noiseBit = c.noiseBit := rfl
@[simp] theorem ChipState.decrementAll_panning :
    c.decrementAll.panning = c.panning := rfl
@[simp] theorem ChipState.decrementAll_sampleClockDivider :
    c.decrementAll.sampleClockDivider = c.sampleClockDivider := rfl
@[simp] theorem ChipState.decrementAll_currentSampleLeft :
    c.decrementAll.currentSampleLeft = c.currentSampleLeft := rfl
@[simp] theorem ChipState.decrementAll_currentSampleRight :
    c.decrementAll.currentSampleRight = c.currentSampleRight := rfl

@[simp] theorem ChipState.guardNoise_volume :
    c.guardNoise.volume = c.volume := rfl
@[simp] theorem ChipState.guardNoise_toneReload :
    c.guardNoise.toneReload = c.toneReload := rfl
@[simp] theorem ChipState.guardNoise_channelSelect :
    c.guardNoise.channelSelect = c.channelSelect := rfl
@[simp] theorem ChipState.guardNoise_volumeOrTone :
    c.guardNoise.volumeOrTone = c.volumeOrTone := rfl
@[simp] theorem ChipState.guardNoise_noiseMode :
    c.guardNoise.noiseMode = c.noiseMode := rfl
@[simp] theorem ChipState.guardNoise_noiseRate :
    c.guardNoise.noiseRate = c.noiseRate := rfl
@[simp] theorem ChipState.guardNoise_noiseShiftRegister :
    c.guardNoise.noiseShiftRegister = guardZero c.noiseShiftRegister := rfl
@[simp] theorem ChipState.guardNoise_clock :
    c.guardNoise.clock = c.clock := rfl
@[simp] theorem ChipState.guardNoise_noiseClock :
    c.guardNoise.noiseClock = c.noiseClock := rfl
@[simp] theorem ChipState.guardNoise_phase :
    c.guardNoise.phase = c.phase := rfl
@[simp] theorem ChipState.guardNoise_noiseBit :
    c.guardNoise.noiseBit = c.noiseBit := rfl
@[simp] theorem ChipState.guardNoise_panning :
    c.guardNoise.panning = c.panning := rfl
@[simp] theorem ChipState.guardNoise_sampleClockDivider :
    c.guardNoise.sampleClockDivider = c.sampleClockDivider := rfl
@[simp] theorem ChipState.guardNoise_currentSampleLeft :
    c.guardNoise.currentSampleLeft = c.currentSampleLeft := rfl
@[simp] theorem ChipState.guardNoise_currentSampleRight :
    c.guardNoise.currentSampleRight = c.currentSampleRight := rfl

@[simp] theorem ChipState.sampleNoise_volume :
    c.sampleNoise.volume = c.volume := rfl
@[simp] theorem ChipState.sampleNoise_toneReload :
    c.sampleNoise.toneReload = c.toneReload := rfl
@[simp] theorem ChipState.sampleNoise_channelSelect :
    c.sampleNoise.channelSelect = c.channelSelect := rfl
@[simp] theorem ChipState.sampleNoise_volumeOrTone :
    c.sampleNoise.volumeOrTone = c.volumeOrTone := rfl
@[simp] theorem ChipState.sampleNoise_noiseMode :
    c.sampleNoise.noiseMode = c.noiseMode := rfl
@[simp] theorem ChipState.sampleNoise_noiseRate :
    c.sampleNoise.noiseRate = c.noiseRate := rfl
@[simp] theorem ChipState.sampleNoise_noiseShiftRegister :
    c.sampleNoise.noiseShiftRegister = c.noiseShiftRegister := rfl
@[simp] theorem ChipState.sampleNoise_clock :
    c.sampleNoise.clock = c.clock := rfl
@[simp] theorem ChipState.sampleNoise_noiseClock :
    c.sampleNoise.noiseClock = c.noiseClock := rfl
@[simp] theorem ChipState.sampleNoise_phase :
    c.sampleNoise.phase = c.phase := rfl
@[simp] theorem ChipState.sampleNoise_noiseBit :
    c.sampleNoise.noiseBit = noiseOutput c.noiseShiftRegister := rfl
@[simp] theorem ChipState.sampleNoise_panning :
    c.sampleNoise.panning = c.panning := rfl
@[simp] theorem ChipState.sampleNoise_sampleClockDivider :
    c.sampleNoise.sampleClockDivider = c.sampleClockDivider := rfl
@[simp] theorem ChipState.sampleNoise_currentSampleLeft :
    c.sampleNoise.currentSampleLeft = c.currentSampleLeft := rfl
@[simp] theorem ChipState.sampleNoise_currentSampleRight :
    c.sampleNoise.currentSampleRight = c.currentSampleRight := rfl

@[simp] theorem ChipState.shiftNoise_volume :
    c.shiftNoise.volume = c.volume := rfl
@[simp] theorem ChipState.shiftNoise_toneReload :
    c.shiftNoise.toneReload = c.toneReload := rfl
@[simp] theorem ChipState.shiftNoise_channelSelect :
    c.shiftNoise.channelSelect = c.channelSelect := rfl
@[simp] theorem ChipState.shiftNoise_volumeOrTone :
    c.shiftNoise.volumeOrTone = c.volumeOrTone := rfl
@[simp] theorem ChipState.shiftNoise_noiseMode :
    c.shiftNoise.noiseMode = c.noiseMode := rfl
@[simp] theorem ChipState.shiftNoise_noiseRate :
    c.shiftNoise.noiseRate = c.noiseRate := rfl
@[simp] theorem ChipState.shiftNoise_noiseShiftRegister :
    c.shiftNoise.noiseShiftRegister = noiseShift c.noiseMode c.noiseShiftRegister := rfl
@[simp] theorem ChipState.shiftNoise_clock :
    c.shiftNoise.clock = c.clock := rfl
@[simp] theorem ChipState.shiftNoise_noiseClock :
    c.shiftNoise.noiseClock = c.noiseClock := rfl
@[simp] theorem ChipState.shiftNoise_phase :
    c.shiftNoise.phase = c.phase := rfl
@[simp] theorem ChipState.shiftNoise_noiseBit :
    c.shiftNoise.noiseBit = c.noiseBit := rfl
@[simp] theorem ChipState.shiftNoise_panning :
    c.shiftNoise.panning = c.panning := rfl
@[simp] theorem ChipState.shiftNoise_sampleClockDivider :
    c.shiftNoise.sampleClockDivider = c.sampleClockDivider := rfl
@[simp] theorem ChipState.shiftNoise_currentSampleLeft :
    c.shiftNoise.currentSampleLeft = c.currentSampleLeft := rfl
@[simp] theorem ChipState.shiftNoise_currentSampleRight :
    c.shiftNoise.currentSampleRight = c.currentSampleRight := rfl

@[simp] theorem ChipState.reloadNoise_volume :
    c.reloadNoise.volume = c.volume := rfl
@[simp] theorem ChipState.reloadNoise_toneReload :
    c.reloadNoise.toneReload = c.toneReload := rfl
@[simp] theorem ChipState.reloadNoise_channelSelect :
    c.reloadNoise.channelSelect = c.channelSelect := rfl
@[simp] theorem ChipState.reloadNoise_volumeOrTone :
    c.reloadNoise.volumeOrTone = c.volumeOrTone := rfl
@[simp] theorem ChipState.reloadNoise_noiseMode :
    c.reloadNoise.noiseMode = c.noiseMode := rfl
@[simp] theorem ChipState.reloadNoise_noiseRate :
    c.reloadNoise.noiseRate = c.noiseRate := rfl
@[simp] theorem ChipState.reloadNoise_noiseShiftRegister :
    c.reloadNoise.noiseShiftRegister = c.noiseShiftRegister := rfl
@[simp] theorem ChipState.reloadNoise_clock :
    c.reloadNoise.clock = c.clock := rfl
@[simp] theorem ChipState.reloadNoise_noiseClock :
    c.reloadNoise.noiseClock = noiseReload c.noiseRate c.toneReload.c := rfl
@[simp] theorem ChipState.reloadNoise_phase :
    c.reloadNoise.phase = c.phase := rfl
@[simp] theorem ChipState.reloadNoise_noiseBit :
    c.reloadNoise.noiseBit = c.noiseBit := rfl
@[simp] theorem ChipState.reloadNoise_panning :
    c.reloadNoise.panning = c.panning := rfl
@[simp] theorem ChipState.reloadNoise_sampleClockDivider :
    c.reloadNoise.sampleClockDivider = c.sampleClockDivider := rfl
@[simp] theorem ChipState.reloadNoise_currentSampleLeft :
    c.reloadNoise.currentSampleLeft = c.currentSampleLeft := rfl
@[simp] theorem ChipState.reloadNoise_currentSampleRight :
    c.reloadNoise.currentSampleRight = c.currentSampleRight := rfl

@[simp] theorem ChipState.flipPhase_volume (k : ToneChannel) :
    (c.flipPhase k).volume = c.volume := rfl
@[simp] theorem ChipState.flipPhase_toneReload (k : ToneChannel) :
    (c.flipPhase k).toneReload = c.toneReload := rfl
@[simp] theorem ChipState.flipPhase_channelSelect (k : ToneChannel) :
    (c.flipPhase k).channelSelect = c.channelSelect := rfl
@[simp] theorem ChipState.flipPhase_volumeOrTone (k : ToneChannel) :
    (c.flipPhase k).volumeOrTone = c.volumeOrTone := rfl
@[simp] theorem ChipState.flipPhase_noiseMode (k : ToneChannel) :
    (c.flipPhase k).noiseMode = c.noiseMode := rfl
@[simp] theorem ChipState.flipPhase_noiseRate (k : ToneChannel) :
    (c.flipPhase k).noiseRate = c.noiseRate := rfl
@[simp] theorem ChipState.flipPhase_noiseShiftRegister (k : ToneChannel) :
    (c.flipPhase k).noiseShiftRegister = c.noiseShiftRegister := rfl
@[simp] theorem ChipState.flipPhase_clock (k : ToneChannel) :
    (c.flipPhase k).clock = c.clock := rfl
@[simp] theorem ChipState.flipPhase_noiseClock (k : ToneChannel) :
    (c.flipPhase k).noiseClock = c.noiseClock := rfl
@[simp] theorem ChipState.flipPhase_phase (k : ToneChannel) :
    (c.flipPhase k).phase = c.phase.set k (!c.phase.get k) := rfl
@[simp] theorem ChipState.flipPhase_noiseBit (k : ToneChannel) :
    (c.flipPhase k).noiseBit = c.noiseBit := rfl
@[simp] theorem ChipState.flipPhase_panning (k : ToneChannel) :
    (c.flipPhase k).panning = c.panning := rfl
@[simp] theorem ChipState.flipPhase_sampleClockDivider (k : ToneChannel) :
    (c.flipPhase k).sampleClockDivider = c.sampleClockDivider := rfl
@[simp] theorem ChipState.flipPhase_currentSampleLeft (k : ToneChannel) :
    (c.flipPhase k).currentSampleLeft = c.currentSampleLeft := rfl
@[simp] theorem ChipState.flipPhase_currentSampleRight (k : ToneChannel) :
    (c.flipPhase k).currentSampleRight = c.currentSampleRight := rfl

@[simp] theorem ChipState.toneFire_volume (k : ToneChannel) :
    (c.toneFire k).volume = c.volume := rfl
@[simp] theorem ChipState.toneFire_toneReload (k : ToneChannel) :
    (c.toneFire k).toneReload = c.toneReload := rfl
@[simp] theorem ChipState.toneFire_channelSelect (k : ToneChannel) :
    (c.toneFire k).channelSelect = c.channelSelect := rfl
@[simp] theorem ChipState.toneFire_volumeOrTone (k : ToneChannel) :
    (c.toneFire k).volumeOrTone = c.volumeOrTone := rfl
@[simp] theorem ChipState.toneFire_noiseMode (k : ToneChannel) :
    (c.toneFire k).noiseMode = c.noiseMode := rfl
@[simp] theorem ChipState.toneFire_noiseRate (k : ToneChannel) :
    (c.toneFire k).noiseRate = c.noiseRate := rfl
@[simp] theorem ChipState.toneFire_noiseShiftRegister (k : ToneChannel) :
    (c.toneFire k).noiseShiftRegister = c.noiseShiftRegister := rfl
@[simp] theorem ChipState.toneFire_clock (k : ToneChannel) :
    (c.toneFire k).clock = c.clock.set k (toneReloadValue (c.toneReload.get k)) := rfl
@[simp] theorem ChipState.toneFire_noiseClock (k : ToneChannel) :
    (c.toneFire k).noiseClock = c.noiseClock := rfl
@[simp] theorem ChipState.toneFire_phase (k : ToneChannel) :
    (c.toneFire k).phase = c.phase.set k (!c.phase.get k) := rfl
@[simp] theorem ChipState.toneFire_noiseBit (k : ToneChannel) :
    (c.toneFire k).noiseBit = c.noiseBit := rfl
@[simp] theorem ChipState.toneFire_panning (k : ToneChannel) :
    (c.toneFire k).panning = c.panning := rfl
@[simp] theorem ChipState.toneFire_sampleClockDivider (k : ToneChannel) :
    (c.toneFire k).sampleClockDivider = c.sampleClockDivider := rfl
@[simp] theorem ChipState.toneFire_currentSampleLeft (k : ToneChannel) :
    (c.toneFire k).currentSampleLeft = c.currentSampleLeft := rfl
@[simp] theorem ChipState.toneFire_currentSampleRight (k : ToneChannel) :
    (c.toneFire k).currentSampleRight = c.currentSampleRight := rfl

@[simp] theorem ChipState.mix_volume :
    c.mix.volume = c.volume := rfl
@[simp] theorem ChipState.mix_toneReload :
    c.mix.toneReload = c.toneReload := rfl
@[simp] theorem ChipState.mix_channelSelect :
    c.mix.channelSelect = c.channelSelect := rfl
@[simp] theorem ChipState.mix_volumeOrTone :
    c.mix.volumeOrTone = c.volumeOrTone := rfl
@[simp] theorem ChipState.mix_noiseMode :
    c.mix.noiseMode = c.noiseMode := rfl
@[simp] theorem ChipState.mix_noiseRate :
    c.mix.noiseRate = c.noiseRate := rfl
@[simp] theorem ChipState.mix_noiseShiftRegister :
    c.mix.noiseShiftRegister = c.noiseShiftRegister := rfl
@[simp] theorem ChipState.mix_clock :
    c.mix.clock = c.clock := rfl
@[simp] theorem ChipState.mix_noiseClock :
    c.mix.noiseClock = c.noiseClock := rfl
@[simp] theorem ChipState.mix_phase :
    c.mix.phase = c.phase := rfl
@[simp] theorem ChipState.mix_noiseBit :
    c.mix.noiseBit = c.noiseBit := rfl
@[simp] theorem ChipState.mix_panning :
    c.mix.panning = c.panning := rfl
@[simp] theorem ChipState.mix_sampleClockDivider :
    c.mix.sampleClockDivider = c.sampleClockDivider := rfl
@[simp] theorem ChipState.mix_currentSampleLeft :
    c.mix.currentSampleLeft = c.mixSide .left := rfl
@[simp] theorem ChipState.mix_currentSampleRight :
    c.mix.currentSampleRight = c.mixSide .right := rfl
@[simp] theorem ChipState.setDivider_volume (d : Nat) :
    (c.setDivider d).volume = c.volume := rfl
@[simp] theorem ChipState.setDivider_toneReload (d : Nat) :
    (c.setDivider d).toneReload = c.toneReload := rfl
@[simp] theorem ChipState.setDivider_channelSelect (d : Nat) :
    (c.setDivider d).channelSelect = c.channelSelect := rfl
@[simp] theorem ChipState.setDivider_volumeOrTone (d : Nat) :
    (c.setDivider d).volumeOrTone = c.volumeOrTone := rfl
@[simp] theorem ChipState.setDivider_noiseMode (d : Nat) :
    (c.setDivider d).noiseMode = c.noiseMode := rfl
@[simp] theorem ChipState.setDivider_noiseRate (d : Nat) :
    (c.setDivider d).noiseRate = c.noiseRate := rfl
@[simp] theorem ChipState.setDivider_noiseShiftRegister (d : Nat) :
    (c.setDivider d).noiseShiftRegister = c.noiseShiftRegister := rfl
@[simp] theorem ChipState.setDivider_clock (d : Nat) :
    (c.setDivider d).clock = c.clock := rfl
@[simp] theorem ChipState.setDivider_noiseClock (d : Nat) :
    (c.setDivider d).noiseClock = c.noiseClock := rfl
@[simp] theorem ChipState.setDivider_phase (d : Nat) :
    (c.setDivider d).phase = c.phase := rfl
@[simp] theorem ChipState.setDivider_noiseBit (d : Nat) :
    (c.setDivider d).noiseBit = c.noiseBit := rfl
@[simp] theorem ChipState.setDivider_panning (d : Nat) :
    (c.setDivider d).panning = c.panning := rfl
@[simp] theorem ChipState.setDivider_sampleClockDivider (d : Nat) :
    (c.setDivider d).sampleClockDivider = d := rfl
@[simp] theorem ChipState.setDivider_currentSampleLeft (d : Nat) :
    (c.setDivider d).currentSampleLeft = c.currentSampleLeft := rfl
@[simp] theorem ChipState.setDivider_currentSampleRight (d : Nat) :
    (c.setDivider d).currentSampleRight = c.currentSampleRight := rfl

end Elements

end Sys2Proof.Machine
end

