-- ==== Sys2Proof/Laws/Ops.lean ====
section
/-! SUPPORT. One lemma per shared operation, saying once everything it can do. -/

namespace Sys2Proof.Machine

/-! ### Register files -/

section RegisterFiles

variable {α β : Type}

@[simp] theorem PerTone.get_set_same (x : PerTone α) (k : ToneChannel) (v : α) : (x.set k v).get k = v := by
  cases k <;> rfl

theorem PerTone.get_set_other (x : PerTone α) {k j : ToneChannel} (h : j ≠ k) (v : α) :
    (x.set k v).get j = x.get j := by
  cases k <;> cases j <;> first | rfl | exact absurd rfl h

theorem PerTone.get_set (x : PerTone α) (k j : ToneChannel) (v : α) :
    (x.set k v).get j = if j = k then v else x.get j := by
  cases k <;> cases j <;> rfl

@[simp] theorem PerTone.get_map (f : α → β) (x : PerTone α) (k : ToneChannel) :
    (x.map f).get k = f (x.get k) := by
  cases k <;> rfl

@[simp] theorem PerChannel.get_set_same (x : PerChannel α) (k : Channel) (v : α) : (x.set k v).get k = v := by
  cases k <;> rfl

theorem PerChannel.get_set_other (x : PerChannel α) {k j : Channel} (h : j ≠ k) (v : α) :
    (x.set k v).get j = x.get j := by
  cases k <;> cases j <;> first | rfl | exact absurd rfl h

@[simp] theorem PerTone.ofList?_toList (x : PerTone α) : PerTone.ofList? x.toList = some x := rfl

@[simp] theorem PerChannel.ofList?_toList (x : PerChannel α) : PerChannel.ofList? x.toList = some x := rfl

theorem PerTone.ext_get {x y : PerTone α} (h : ∀ k, x.get k = y.get k) : x = y := by
  have ha := h .a
  have hb := h .b
  have hc := h .c
  cases x; cases y
  simp_all [PerTone.get]

end RegisterFiles

@[simp] theorem ToneChannel.ofSelect?_index (k : ToneChannel) : ToneChannel.ofSelect? k.index = some k := by
  cases k <;> rfl

@[simp] theorem Channel.ofSelect_index (k : Channel) : Channel.ofSelect k.index = k := by
  cases k <;> rfl

theorem ToneChannel.ofSelect?_eq_none_iff (q : BitVec 2) : ToneChannel.ofSelect? q = none ↔ q = 3 := by
  revert q; decide

/-! ### Period assembly -/

theorem getLsbD_hiLo (h : BitVec 6) (l : BitVec 4) (i : Nat) :
    (h ++ l : Period).getLsbD i = if i < 4 then l.getLsbD i else h.getLsbD (i - 4) := by
  have e := BitVec.getLsbD_append (x := h) (y := l) (i := i)
  by_cases hi : i < 4 <;> simpa [hi] using e

theorem toNat_hiLo (h : BitVec 6) (l : BitVec 4) : (h ++ l : Period).toNat = (h.toNat <<< 4) ||| l.toNat :=
  BitVec.toNat_append h l

/-- A period is its two halves (R65). -/
theorem Period_halves (p : Period) : (p.extractLsb' 4 6 ++ p.extractLsb' 0 4 : Period) = p := by
  apply BitVec.eq_of_getLsbD_eq
  intro i hi
  rw [getLsbD_hiLo]
  split
  · rename_i h
    simp [h]
  · rename_i h
    have h6 : i - 4 < 6 := by omega
    simp [h6, Nat.add_sub_cancel' (Nat.le_of_not_lt h)]

theorem low_of_hiLo (h : BitVec 6) (l : BitVec 4) : (h ++ l : Period).extractLsb' 0 4 = l := by
  apply BitVec.eq_of_getLsbD_eq
  intro i hi
  rw [BitVec.getLsbD_extractLsb', getLsbD_hiLo]
  simp [hi]

theorem high_of_hiLo (h : BitVec 6) (l : BitVec 4) : (h ++ l : Period).extractLsb' 4 6 = h := by
  apply BitVec.eq_of_getLsbD_eq
  intro i hi
  rw [BitVec.getLsbD_extractLsb', getLsbD_hiLo]
  simp [hi]

@[simp] theorem Period.withHigh_withLow (p : Period) (d : BitVec 4) (h : BitVec 6) :
    Period.withHigh (Period.withLow p d) h = (h ++ d : Period) := by
  rw [Period.withHigh, Period.withLow, low_of_hiLo]

@[simp] theorem Period.withLow_withHigh (p : Period) (d : BitVec 4) (h : BitVec 6) :
    Period.withLow (Period.withHigh p h) d = (h ++ d : Period) := by
  rw [Period.withHigh, Period.withLow, high_of_hiLo]

/-! ### How an event ends -/

/-- Everything `complete` can answer with. -/
theorem State.complete_eq_next_iff (s t : State) (c : ChipState) (r : Option HostReply) :
    s.complete c r = .next t ↔ s.usable = true ∧ t = { s with chip := c, reply := r } := by
  unfold State.complete
  split
  case isTrue h => exact ⟨fun e => ⟨h, (Host.Outcome.next.inj e).symm⟩, fun e => by rw [e.2]⟩
  case isFalse h => exact ⟨fun e => (nomatch e), fun e => absurd e.1 h⟩

theorem State.complete_of_usable {s : State} (h : s.usable = true) (c : ChipState) (r : Option HostReply) :
    s.complete c r = .next { s with chip := c, reply := r } := by
  simp [State.complete, h]

theorem State.complete_of_not_usable {s : State} (h : s.usable = false) (c : ChipState) (r : Option HostReply) :
    s.complete c r = .refused .unusableState := by
  simp [State.complete, h]

/-! ### The noise generator -/

/-- Bit by bit: the feedback enters at the top, every other bit moves down by one (R107). -/
theorem getLsbD_noiseShift (mode : Bool) (x : Lfsr) (i : Nat) (hi : i < lfsrW) :
    (noiseShift mode x).getLsbD i =
      if i = lfsrW - 1 then noiseFeedback mode x else x.getLsbD (i + 1) := by
  simp only [lfsrW] at hi
  have hcase : i = 14 ∨ i < 14 := by omega
  rcases hcase with rfl | hlt
  · simp [noiseShift]
  · have hne : i ≠ 14 := by omega
    simp [noiseShift, hne, hlt, Nat.add_comm]

theorem noiseSeed_ne_zero : noiseSeed ≠ 0 := by decide

@[simp] theorem guardZero_of_ne_zero {x : Lfsr} (h : x ≠ 0) : guardZero x = x := if_neg h

theorem guardZero_ne_zero (x : Lfsr) : guardZero x ≠ 0 := by
  unfold guardZero
  split
  · exact noiseSeed_ne_zero
  · assumption

/-- The old value is recoverable: the map of R107 is injective in both modes (R109). -/
theorem noiseShift_injective (mode : Bool) {x y : Lfsr} (h : noiseShift mode x = noiseShift mode y) : x = y := by
  have hb : ∀ i, i < lfsrW →
      (if i = lfsrW - 1 then noiseFeedback mode x else x.getLsbD (i + 1)) =
      (if i = lfsrW - 1 then noiseFeedback mode y else y.getLsbD (i + 1)) := by
    intro i hi
    rw [← getLsbD_noiseShift mode x i hi, ← getLsbD_noiseShift mode y i hi, h]
  have hup : ∀ i, 0 < i → i < lfsrW → x.getLsbD i = y.getLsbD i := by
    intro i hpos hi
    have hne : i - 1 ≠ lfsrW - 1 := by omega
    have := hb (i - 1) (by omega)
    rw [if_neg hne, if_neg hne] at this
    rwa [Nat.sub_add_cancel hpos] at this
  have htop := hb (lfsrW - 1) (by decide)
  rw [if_pos rfl, if_pos rfl] at htop
  have h1 := hup 1 (by decide) (by decide)
  have h0 : x.getLsbD 0 = y.getLsbD 0 := by
    unfold noiseFeedback at htop
    split at htop
    · rw [h1] at htop
      exact (Bool.xor_left_inj).mp htop
    · exact htop
  apply BitVec.eq_of_getLsbD_eq
  intro i hi
  rcases Nat.eq_zero_or_pos i with rfl | hpos
  · exact h0
  · exact hup i hpos hi

@[simp] theorem noiseShift_zero (mode : Bool) : noiseShift mode 0 = 0 := by cases mode <;> decide

theorem noiseShift_ne_zero (mode : Bool) {x : Lfsr} (h : x ≠ 0) : noiseShift mode x ≠ 0 := by
  intro hz
  exact h (noiseShift_injective mode (hz.trans (noiseShift_zero mode).symm))

theorem noiseReload_range (rate : BitVec 2) (p : Period) : 2 ≤ noiseReload rate p ∧ noiseReload rate p ≤ 2048 := by
  have hp : p.toNat < 1024 := p.isLt
  have hcases : rate = 0 ∨ rate = 1 ∨ rate = 2 ∨ rate = 3 := by revert rate; decide
  rcases hcases with rfl | rfl | rfl | rfl <;> simp [noiseReload, noiseScale, noiseBase, noiseDiv]
  omega

theorem toneReloadValue_range (p : Period) : 1 ≤ toneReloadValue p ∧ toneReloadValue p ≤ 1024 := by
  have hp : p.toNat < 1024 := p.isLt
  simp only [toneReloadValue]
  omega

/-! ### The tick, element by element -/

section Tick

variable (c : ChipState)

/-- Everything `stepNoise` does. -/
theorem ChipState.stepNoise_eq :
    c.stepNoise =
      { c with
        noiseBit := if c.noiseClock = 0 then noiseOutput (guardZero c.noiseShiftRegister) else c.noiseBit
        noiseShiftRegister :=
          if c.noiseClock = 0 then noiseShift c.noiseMode (guardZero c.noiseShiftRegister)
          else c.noiseShiftRegister
        noiseClock := if c.noiseClock = 0 then noiseReload c.noiseRate c.toneReload.c else c.noiseClock } := by
  unfold ChipState.stepNoise
  split <;> rfl

/-- Everything `stepTone` does. -/
theorem ChipState.stepTone_eq (k : ToneChannel) :
    c.stepTone k =
      { c with
        phase := if c.clock.get k = 0 then c.phase.set k (!c.phase.get k) else c.phase
        clock := if c.clock.get k = 0 then c.clock.set k (toneReloadValue (c.toneReload.get k)) else c.clock } := by
  unfold ChipState.stepTone
  split <;> rfl

theorem ChipState.stepTone_clock_get (k j : ToneChannel) :
    (c.stepTone k).clock.get j =
      if j = k ∧ c.clock.get k = 0 then toneReloadValue (c.toneReload.get k) else c.clock.get j := by
  rw [ChipState.stepTone_eq]
  by_cases h : c.clock.get k = 0 <;> simp [h, PerTone.get_set]

theorem ChipState.stepTone_phase_get (k j : ToneChannel) :
    (c.stepTone k).phase.get j = if j = k ∧ c.clock.get k = 0 then !c.phase.get k else c.phase.get j := by
  rw [ChipState.stepTone_eq]
  by_cases h : c.clock.get k = 0 <;> simp [h, PerTone.get_set]

@[simp] theorem ChipState.stepTone_toneReload (k : ToneChannel) : (c.stepTone k).toneReload = c.toneReload := by
  rw [ChipState.stepTone_eq]

theorem ChipState.decremented_clock_get (k : ToneChannel) :
    c.decrementAll.stepNoise.clock.get k = c.clock.get k - 1 := by
  rw [ChipState.stepNoise_eq]
  exact PerTone.get_map _ _ _

theorem ChipState.decremented_frame :
    c.decrementAll.stepNoise.toneReload = c.toneReload ∧ c.decrementAll.stepNoise.phase = c.phase := by
  rw [ChipState.stepNoise_eq]
  exact ⟨rfl, rfl⟩

/-- The counters of the three tone channels after a tick (R103, R110). -/
theorem ChipState.tick_clock (k : ToneChannel) :
    c.tick.clock.get k = if c.clock.get k = 1 then toneReloadValue (c.toneReload.get k) else c.clock.get k - 1 := by
  have hz : c.clock.get k - 1 = 0 ↔ c.clock.get k = 1 := by omega
  cases k <;>
    simp [ChipState.tick, ChipState.stepTone_clock_get, ChipState.decremented_clock_get,
      ChipState.decremented_frame, hz]

/-- The phases after a tick (R110). -/
theorem ChipState.tick_phase (k : ToneChannel) :
    c.tick.phase.get k = if c.clock.get k = 1 then !c.phase.get k else c.phase.get k := by
  have hz : c.clock.get k - 1 = 0 ↔ c.clock.get k = 1 := by omega
  cases k <;>
    simp [ChipState.tick, ChipState.stepTone_phase_get, ChipState.stepTone_clock_get,
      ChipState.decremented_clock_get, ChipState.decremented_frame, hz]

/-- The noise output bit after a tick (R104 to R106). -/
theorem ChipState.tick_noiseBit :
    c.tick.noiseBit = if c.noiseClock = 1 then noiseOutput (guardZero c.noiseShiftRegister) else c.noiseBit := by
  have hz : c.noiseClock - 1 = 0 ↔ c.noiseClock = 1 := by omega
  simp only [ChipState.tick, ChipState.mix_noiseBit, ChipState.stepTone_eq, ChipState.stepNoise_eq,
    ChipState.decrementAll_noiseClock, ChipState.decrementAll_noiseBit, ChipState.decrementAll_noiseShiftRegister, hz]

/-- The shift register after a tick (R104, R105, R107). -/
theorem ChipState.tick_noiseShiftRegister :
    c.tick.noiseShiftRegister =
      if c.noiseClock = 1 then noiseShift c.noiseMode (guardZero c.noiseShiftRegister) else c.noiseShiftRegister := by
  have hz : c.noiseClock - 1 = 0 ↔ c.noiseClock = 1 := by omega
  simp only [ChipState.tick, ChipState.mix_noiseShiftRegister, ChipState.stepTone_eq, ChipState.stepNoise_eq,
    ChipState.decrementAll_noiseClock, ChipState.decrementAll_noiseMode, ChipState.decrementAll_noiseShiftRegister, hz]

/-- The noise counter after a tick (R103, R104, R108). -/
theorem ChipState.tick_noiseClock :
    c.tick.noiseClock = if c.noiseClock = 1 then noiseReload c.noiseRate c.toneReload.c else c.noiseClock - 1 := by
  have hz : c.noiseClock - 1 = 0 ↔ c.noiseClock = 1 := by omega
  simp only [ChipState.tick, ChipState.mix_noiseClock, ChipState.stepTone_eq, ChipState.stepNoise_eq,
    ChipState.decrementAll_noiseClock, ChipState.decrementAll_noiseRate, ChipState.decrementAll_toneReload, hz]

/-- A tick writes no programmable register, no latch, no panning and no divider (R97, R102). -/
theorem ChipState.tick_frame :
    c.tick.volume = c.volume ∧ c.tick.toneReload = c.toneReload ∧ c.tick.channelSelect = c.channelSelect ∧
    c.tick.volumeOrTone = c.volumeOrTone ∧ c.tick.noiseMode = c.noiseMode ∧ c.tick.noiseRate = c.noiseRate ∧
    c.tick.panning = c.panning ∧ c.tick.sampleClockDivider = c.sampleClockDivider := by
  simp [ChipState.tick, ChipState.stepTone_eq, ChipState.stepNoise_eq]

/-- The samples after a tick are the mix of the flags as the tick leaves them (R114). -/
theorem ChipState.tick_samples :
    c.tick.currentSampleLeft = c.tick.mixSide .left ∧ c.tick.currentSampleRight = c.tick.mixSide .right :=
  ⟨rfl, rfl⟩

theorem ChipState.isOn_toChannel (k : ToneChannel) : c.isOn k.toChannel = c.phase.get k := by cases k <;> rfl

/-- The flag of a tone channel after a tick (R110, R114). -/
theorem ChipState.tick_isOn_tone (k : ToneChannel) :
    c.tick.isOn k.toChannel = if c.clock.get k = 1 then !c.phase.get k else c.phase.get k := by
  rw [ChipState.isOn_toChannel, ChipState.tick_phase]

/-- The flag of the noise channel after a tick (R106, R114). -/
theorem ChipState.tick_isOn_noise :
    c.tick.isOn .noise = if c.noiseClock = 1 then noiseOutput (guardZero c.noiseShiftRegister) else c.noiseBit :=
  c.tick_noiseBit

/-- What a channel adds to a side at a tick: the tick changes its flag and neither its volume nor its route. -/
theorem ChipState.tick_contribution (side : Side) (k : Channel) :
    c.tick.contribution side k =
      if c.tick.isOn k && c.panning.getLsbD (panBit side k) then volEntry (c.volume.get k) * Config.mixScale
      else 0 := by
  rw [ChipState.contribution, c.tick_frame.1, c.tick_frame.2.2.2.2.2.2.1]

/-- Two states whose channels add the same at a tick have the same samples after it. -/
theorem ChipState.tick_mixSide_congr {c d : ChipState} (side : Side)
    (h : ∀ k, c.tick.contribution side k = d.tick.contribution side k) : c.tick.mixSide side = d.tick.mixSide side := by
  simp only [ChipState.mixSide, h]

/-- Every volume entry is at most 255 (R113). -/
theorem volEntry_le (v : VolIndex) : volEntry v ≤ 255 := by revert v; decide

theorem ChipState.contribution_le (side : Side) (k : Channel) : c.contribution side k ≤ 255 * Config.mixScale := by
  unfold ChipState.contribution
  split
  · exact Nat.mul_le_mul_right _ (volEntry_le _)
  · exact Nat.zero_le _

/-- An output is at most `1020 * MIX_SCALE` (I8). -/
theorem ChipState.mixSide_le (side : Side) : c.mixSide side ≤ 1020 * Config.mixScale := by
  have ha := c.contribution_le side .a
  have hb := c.contribution_le side .b
  have hc := c.contribution_le side .c
  have hn := c.contribution_le side .noise
  unfold ChipState.mixSide
  omega

/-- Everything a host clock pulse can do (R101). -/
theorem ChipState.pulse_cases :
    (c.sampleClockDivider = 15 ∧ c.pulse = (c.setDivider 0).tick) ∨
    (c.sampleClockDivider ≠ 15 ∧ c.pulse = c.setDivider (c.sampleClockDivider + 1)) := by
  by_cases h : c.sampleClockDivider = 15
  · exact .inl ⟨h, by simp [ChipState.pulse, divRatio, h]⟩
  · exact .inr ⟨h, by simp [ChipState.pulse, divRatio, h]⟩

end Tick

/-! ### Steps -/

/-- A step applies the head of the host's list. -/
theorem step_cons {s : State} {e : HostEvent} {rest : List HostEvent} (h : s.events = e :: rest) :
    step s = exec (s.decodeEvent e) { s with events := rest } := by
  simp [step, State.takeEvent, h]

/-- A step with no event does nothing. -/
theorem step_nil {s : State} (h : s.events = []) : step s = .next s := by
  simp [step, State.takeEvent, h]

/-- What the meaning of `LOAD` can answer with. -/
theorem execLoad_cases (img : Image) (s : State) :
    (img.values? = none ∧ execLoad img s = .next s.raiseStateCorruption) ∨
    (∃ v, img.values? = some v ∧ v.inRange = true ∧ execLoad img s = .next (s.install v.toChip.repair)) ∨
    (∃ v, img.values? = some v ∧ v.inRange = false ∧ execLoad img s = .refused .imageOutsideInvariants) := by
  unfold execLoad
  cases hv : img.values? with
  | none => exact .inl ⟨rfl, rfl⟩
  | some v =>
    cases hr : v.inRange with
    | true => exact .inr (.inl ⟨v, rfl, hr, by simp [hr]⟩)
    | false => exact .inr (.inr ⟨v, rfl, hr, by simp [hr]⟩)

/-- The values of a saved image are the elements (R145). -/
theorem values?_ofChip (c : ChipState) :
    (Image.ofChip c).values? = some
      { volume := c.volume.map fun v => (v.toNat : Int)
        toneReload := c.toneReload.map fun p => (p.toNat : Int)
        channelSelect := c.channelSelect.toNat
        volumeOrTone := c.volumeOrTone
        noiseMode := c.noiseMode
        noiseRate := c.noiseRate.toNat
        noiseShiftRegister := c.noiseShiftRegister.toNat
        clock := c.clock
        noiseClock := c.noiseClock
        phase := c.phase
        noiseBit := c.noiseBit
        panning := c.panning.toNat
        sampleClockDivider := c.sampleClockDivider
        currentSampleLeft := c.currentSampleLeft
        currentSampleRight := c.currentSampleRight } := rfl

end Sys2Proof.Machine
end

