-- ==== Sys2Proof/Laws/PerInstr.lean ====
section
/-! SUPPORT. Statements for all instructions, made per instruction.  `TableRow`: the byte the encoder makes
for a write-port command has the fixed bits of its row of spec/opcode_table.json. -/

namespace Sys2Proof.Laws.TableRow

open Machine

/-- The `match` and `mask` of a write-port row. -/
def row : Instr → Option (Byte × Byte)
  | .latchToneA _ => some (0x80, 0xF0)
  | .latchVolA _ => some (0x90, 0xF0)
  | .latchToneB _ => some (0xA0, 0xF0)
  | .latchVolB _ => some (0xB0, 0xF0)
  | .latchToneC _ => some (0xC0, 0xF0)
  | .latchVolC _ => some (0xD0, 0xF0)
  | .latchNoise _ _ => some (0xE0, 0xF0)
  | .latchVolN _ => some (0xF0, 0xF0)
  | .dataVol _ => some (0x00, 0x80)
  | .dataTone _ => some (0x00, 0x80)
  | .dataNoise _ _ => some (0x00, 0x80)
  | .setpan _ => none
  | .read => none
  | .advance => none
  | .reset => none
  | .save => none
  | .load _ => none

/-- The byte of an instruction, where it has one at the write port. -/
def byteOf (i : Instr) : Option Byte :=
  match encode i with
  | .write b => some b
  | _ => none

/-- An instruction has a write-port byte exactly when its row has fixed bits, and the byte has them. -/
def Statement (i : Instr) : Prop := (byteOf i).map (fun b => (row i).map fun r => b &&& r.2) = (row i).map fun r => some r.1

theorem latchToneA (d : BitVec 4) : Statement (.latchToneA d) := by
  unfold Statement; revert d; decide

theorem latchVolA (d : BitVec 4) : Statement (.latchVolA d) := by
  unfold Statement; revert d; decide

theorem latchToneB (d : BitVec 4) : Statement (.latchToneB d) := by
  unfold Statement; revert d; decide

theorem latchVolB (d : BitVec 4) : Statement (.latchVolB d) := by
  unfold Statement; revert d; decide

theorem latchToneC (d : BitVec 4) : Statement (.latchToneC d) := by
  unfold Statement; revert d; decide

theorem latchVolC (d : BitVec 4) : Statement (.latchVolC d) := by
  unfold Statement; revert d; decide

theorem latchNoise (m : Bool) (r : BitVec 2) : Statement (.latchNoise m r) := by
  unfold Statement; revert m r; decide

theorem latchVolN (d : BitVec 4) : Statement (.latchVolN d) := by
  unfold Statement; revert d; decide

theorem dataVol (d : BitVec 4) : Statement (.dataVol d) := by
  unfold Statement; revert d; decide

theorem dataTone (h : BitVec 6) : Statement (.dataTone h) := by
  unfold Statement; revert h; decide

theorem dataNoise (m : Bool) (r : BitVec 2) : Statement (.dataNoise m r) := by
  unfold Statement; revert m r; decide

theorem setpan (p : BitVec 8) : Statement (.setpan p) := rfl

theorem read : Statement .read := rfl

theorem advance : Statement .advance := rfl

theorem reset : Statement .reset := rfl

theorem save : Statement .save := rfl

theorem load (img : Machine.Image) : Statement (.load img) := rfl

end Sys2Proof.Laws.TableRow
end

