-- ==== Sys2Proof/Laws/Step.lean ====
section
/-! SUPPORT. What a meaning and a step can do, said once: when a meaning completes, that no meaning reads or
writes the host's list of events, and what an image must hold to have values. -/

namespace Sys2Proof.Machine

/-- The decoder only gives an instruction that the latch selects (R69, R91). -/
theorem decode_selected (q : BitVec 2) (v : Bool) (e : HostEvent) : (decode q v e).selectedBy q v = true := by
  cases e with
  | write b =>
    simp only [decode, decodeWrite]
    split
    · unfold decodeLatch
      split <;> rfl
    · unfold decodeData
      split_ifs <;> simp_all [Instr.selectedBy]
  | _ => rfl

/-- Only a load event decodes to `LOAD`. -/
theorem decode_ne_load (q : BitVec 2) (v : Bool) {e : HostEvent} (h : ∀ img, e ≠ .load img) (img : Image) :
    decode q v e ≠ .load img := by
  cases e with
  | write b =>
    simp only [decode, decodeWrite]
    split
    · unfold decodeLatch
      split <;> simp
    · unfold decodeData
      split_ifs <;> simp
  | load i => exact absurd rfl (h i)
  | _ => simp [decode]

/-- Only a reset event decodes to `RESET`. -/
theorem decode_ne_reset (q : BitVec 2) (v : Bool) {e : HostEvent} (h : e ≠ .reset) : decode q v e ≠ .reset := by
  cases e with
  | write b =>
    simp only [decode, decodeWrite]
    split
    · unfold decodeLatch
      split <;> simp
    · unfold decodeData
      split_ifs <;> simp
  | reset => exact absurd rfl h
  | _ => simp [decode]

/-- Every meaning but those of `RESET` and `LOAD`, selected by the latch, ends by `complete` and reports no error. -/
theorem exec_eq_complete (s : State) (i : Instr)
    (hs : i.selectedBy s.chip.channelSelect s.chip.volumeOrTone = true) (hr : i ≠ .reset)
    (hl : ∀ img, i ≠ .load img) : ∃ c r, exec i s = s.complete c r ∧ r ≠ some .stateCorruption := by
  cases i with
  | reset => exact absurd rfl hr
  | load img => exact absurd rfl (hl img)
  | dataVol d => exact ⟨_, _, if_pos hs, by simp⟩
  | dataNoise m r =>
    simp only [Instr.selectedBy, Bool.and_eq_true, Bool.not_eq_true', beq_iff_eq] at hs
    exact ⟨_, _, if_pos hs, by simp⟩
  | dataTone h =>
    simp only [Instr.selectedBy, Bool.and_eq_true, Bool.not_eq_true', bne_iff_ne] at hs
    cases hq : ToneChannel.ofSelect? s.chip.channelSelect with
    | none => exact absurd ((ToneChannel.ofSelect?_eq_none_iff _).mp hq) hs.2
    | some k => exact ⟨_, none, by simp only [exec, execDataTone, hs.1, hq]; rfl, by simp⟩
  | _ => exact ⟨_, _, rfl, by simp⟩

/-- In a usable state every event but `LOAD` completes and reports no error (R140). -/
theorem apply_usable {s : State} {e : HostEvent} (hu : s.usable = true) (hl : ∀ img, e ≠ .load img) :
    ∃ c r, s.apply e = .next { s with chip := c, usable := true, reply := r } ∧ r ≠ some .stateCorruption := by
  by_cases hr : e = .reset
  · subst hr
    exact ⟨_, none, rfl, by simp⟩
  · obtain ⟨c, r, h, he⟩ := exec_eq_complete s _ (decode_selected _ _ e) (decode_ne_reset _ _ hr) (decode_ne_load _ _ hl)
    refine ⟨c, r, h.trans ?_, he⟩
    rw [State.complete_of_usable hu]
    exact congrArg Host.Outcome.next (by rw [← hu])

/-- In the unusable state every event but `RESET` and `LOAD` is refused (R144). -/
theorem apply_unusable {s : State} {e : HostEvent} (hu : s.usable = false) (hr : e ≠ .reset)
    (hl : ∀ img, e ≠ .load img) : s.apply e = .refused .unusableState := by
  obtain ⟨c, r, h, -⟩ := exec_eq_complete s _ (decode_selected _ _ e) (decode_ne_reset _ _ hr) (decode_ne_load _ _ hl)
  exact h.trans (State.complete_of_not_usable hu c r)

theorem State.complete_events (s : State) (x : List HostEvent) (c : ChipState) (r : Option HostReply) :
    (∀ t, s.complete c r = .next t → ({ s with events := x } : State).complete c r = .next { t with events := x }) ∧
    (∀ f, s.complete c r = .refused f → ({ s with events := x } : State).complete c r = .refused f) := by
  constructor
  · intro t h
    obtain ⟨hu, rfl⟩ := (State.complete_eq_next_iff _ _ _ _).mp h
    exact State.complete_of_usable (s := { s with events := x }) hu c r
  · intro f h
    cases hu : s.usable with
    | true =>
      rw [State.complete_of_usable hu] at h
      exact (nomatch h)
    | false =>
      rw [State.complete_of_not_usable hu] at h
      have h' := State.complete_of_not_usable (s := { s with events := x }) hu c r
      simp only [hu] at h' ⊢
      exact h'.trans h

/-- No meaning reads the host's list of events, and each leaves it as it is. -/
theorem exec_events (i : Instr) (s : State) (x : List HostEvent) :
    (∀ t, exec i s = .next t → exec i { s with events := x } = .next { t with events := x }) ∧
    (∀ f, exec i s = .refused f → exec i { s with events := x } = .refused f) := by
  cases i with
  | reset =>
    refine ⟨fun t h => ?_, fun f h => (nomatch h)⟩
    cases h
    rfl
  | load img =>
    simp only [exec]
    rcases execLoad_cases img s with ⟨hv, h⟩ | ⟨v, hv, hr, h⟩ | ⟨v, hv, hr, h⟩ <;> rw [h]
    · refine ⟨fun t e => ?_, fun f e => (nomatch e)⟩
      cases e
      simp [execLoad, hv, State.raiseStateCorruption]
    · refine ⟨fun t e => ?_, fun f e => (nomatch e)⟩
      cases e
      simp [execLoad, hv, hr, State.install]
    · refine ⟨fun t e => (nomatch e), fun f e => ?_⟩
      cases e
      simp [execLoad, hv, hr]
  | dataVol d =>
    simp only [exec, execDataVol]
    split
    · exact s.complete_events x _ _
    · exact ⟨fun t h => (nomatch h), fun f h => h⟩
  | dataTone h =>
    simp only [exec, execDataTone]
    split
    · exact s.complete_events x _ _
    · exact ⟨fun t h => (nomatch h), fun f h => h⟩
  | dataNoise m r =>
    simp only [exec, execDataNoise]
    split
    · exact s.complete_events x _ _
    · exact ⟨fun t h => (nomatch h), fun f h => h⟩
  | _ => exact s.complete_events x _ _

theorem exec_keeps_events {i : Instr} {s t : State} (h : exec i s = .next t) : t.events = s.events := by
  have := (exec_events i s s.events).1 t h
  have e := Host.Outcome.next.inj ((show exec i s = .next { t with events := s.events } from this).symm.trans h)
  rw [← e]

/-- Applying a longer list is applying its parts. -/
theorem State.applyAll_append {s t : State} {xs : List HostEvent} (ys : List HostEvent) (h : s.applyAll xs = .next t) :
    s.applyAll (xs ++ ys) = t.applyAll ys := by
  induction xs generalizing s with
  | nil =>
    cases h
    rfl
  | cons e xs ih =>
    simp only [State.applyAll, List.cons_append] at h ⊢
    cases he : s.apply e with
    | next u =>
      simp only [he] at h ⊢
      exact ih h
    | fault r => exact (nomatch r)
    | refused r => simp [he] at h

theorem PerTone.ofList?_eq_some {α : Type} {xs : List α} {x : PerTone α} (h : PerTone.ofList? xs = some x) :
    xs = x.toList := by
  unfold PerTone.ofList? at h
  split at h
  · cases h
    rfl
  · exact (nomatch h)

theorem PerChannel.ofList?_eq_some {α : Type} {xs : List α} {x : PerChannel α} (h : PerChannel.ofList? xs = some x) :
    xs = x.toList := by
  unfold PerChannel.ofList? at h
  split at h
  · cases h
    rfl
  · exact (nomatch h)

/-- What an image that is not malformed holds (R146). -/
theorem Image.values?_eq_some {img : Image} {v : ImageValues} (h : img.values? = some v) :
    img =
      { balanced := true
        volume := some v.volume.toList
        toneReload := some v.toneReload.toList
        channelSelect := some v.channelSelect
        volumeOrTone := some v.volumeOrTone
        noiseMode := some v.noiseMode
        noiseRate := some v.noiseRate
        noiseShiftRegister := some v.noiseShiftRegister
        clock := some v.clock.toList
        noiseClock := some v.noiseClock
        phase := some v.phase.toList
        noiseBit := some v.noiseBit
        panning := some v.panning
        sampleClockDivider := some v.sampleClockDivider
        currentSampleLeft := some v.currentSampleLeft
        currentSampleRight := some v.currentSampleRight } := by
  unfold Image.values? at h
  split at h
  case isFalse => exact (nomatch h)
  case isTrue hb =>
    obtain ⟨x1, e1, h⟩ := Option.bind_eq_some_iff.mp h
    obtain ⟨x2, e2, h⟩ := Option.bind_eq_some_iff.mp h
    obtain ⟨x3, e3, h⟩ := Option.bind_eq_some_iff.mp h
    obtain ⟨x4, e4, h⟩ := Option.bind_eq_some_iff.mp h
    obtain ⟨x5, e5, h⟩ := Option.bind_eq_some_iff.mp h
    obtain ⟨x6, e6, h⟩ := Option.bind_eq_some_iff.mp h
    obtain ⟨x7, e7, h⟩ := Option.bind_eq_some_iff.mp h
    obtain ⟨x8, e8, h⟩ := Option.bind_eq_some_iff.mp h
    obtain ⟨x9, e9, h⟩ := Option.bind_eq_some_iff.mp h
    obtain ⟨x10, e10, h⟩ := Option.bind_eq_some_iff.mp h
    obtain ⟨x11, e11, h⟩ := Option.bind_eq_some_iff.mp h
    obtain ⟨x12, e12, h⟩ := Option.bind_eq_some_iff.mp h
    obtain ⟨x13, e13, h⟩ := Option.bind_eq_some_iff.mp h
    obtain ⟨x14, e14, h⟩ := Option.bind_eq_some_iff.mp h
    obtain ⟨x15, e15, h⟩ := Option.bind_eq_some_iff.mp h
    obtain ⟨l1, g1, f1⟩ := Option.bind_eq_some_iff.mp e1
    obtain ⟨l2, g2, f2⟩ := Option.bind_eq_some_iff.mp e2
    obtain ⟨l8, g8, f8⟩ := Option.bind_eq_some_iff.mp e8
    obtain ⟨l10, g10, f10⟩ := Option.bind_eq_some_iff.mp e10
    cases h
    cases img
    clear e1 e2 e8 e10
    simp only at hb g1 g2 e3 e4 e5 e6 e7 g8 e9 g10 e11 e12 e13 e14 e15
    subst hb g1 g2 e3 e4 e5 e6 e7 g8 e9 g10 e11 e12 e13 e14 e15
    rw [PerChannel.ofList?_eq_some f1, PerTone.ofList?_eq_some f2, PerTone.ofList?_eq_some f8,
      PerTone.ofList?_eq_some f10]

theorem PerTone.all_iff {α : Type} (f : α → Bool) (x : PerTone α) : x.all f = true ↔ ∀ k, f (x.get k) = true := by
  simp only [PerTone.all, Bool.and_eq_true]
  exact ⟨fun h k => by cases k <;> simp [PerTone.get, h], fun h => ⟨⟨h .a, h .b⟩, h .c⟩⟩

theorem PerChannel.all_iff {α : Type} (f : α → Bool) (x : PerChannel α) :
    x.all f = true ↔ ∀ k, f (x.get k) = true := by
  simp only [PerChannel.all, Bool.and_eq_true]
  exact ⟨fun h k => by cases k <;> simp [PerChannel.get, h], fun h => ⟨⟨⟨h .a, h .b⟩, h .c⟩, h .noise⟩⟩

theorem between_iff (lo hi x : Int) : between lo hi x = true ↔ lo ≤ x ∧ x ≤ hi := by simp [between]

/-- A value that fits a register is stored as it is (R146). -/
theorem toNat_ofInt_of_fits (w : Nat) (x : Int) (h0 : 0 ≤ x) (h1 : x < 2 ^ w) : ((BitVec.ofInt w x).toNat : Int) = x := by
  rw [BitVec.toNat_ofInt, Int.emod_eq_of_lt h0 (by push_cast; exact h1)]
  omega

end Sys2Proof.Machine
end

