-- ==== Sys2Proof/Tests/Slice0.lean ====
section
/-! SUPPORT. The model's own tests: ill-formed terms, words written out from the spec's encodings, the vectors of
spec/95_test_vectors.md one event at a time, and a witness for the hypotheses of every statement that has some.
Expected values are the spec's. -/

namespace Sys2Proof.Tests

open Sys2Proof Machine Host

/-- A usable block with the given elements and no event waiting. -/
def on (c : ChipState) : State := { State.reset with chip := c }

/-- The reset elements, the start of most vectors. -/
abbrev rst : ChipState := ChipState.reset

/-- The elements after one event; `none` where it is refused. -/
def after (c : ChipState) (e : HostEvent) : Option ChipState :=
  match (on c).apply e with
  | .next t => some t.chip
  | .fault _ => none
  | .refused _ => none

/-- The elements after a byte at the write port. -/
def wrote (c : ChipState) (b : Byte) : Option ChipState := after c (.write b)

/-- The elements after one tick. -/
def ticked (c : ChipState) : Option ChipState := after { c with sampleClockDivider := 15 } .advance

/-- The reason an event is refused; `none` where it is not. -/
def stops (s : State) (e : HostEvent) : Option Refusal :=
  match s.apply e with
  | .next _ => none
  | .fault _ => none
  | .refused r => some r

/-! ### Well-formed terms -/

/-- An image as `SAVE` makes it, the base of the ill-formed ones. -/
def img0 : Image := Image.ofChip rst

theorem test_wf_image : (Instr.load img0).wellFormed = true := by
  have h : img0.values? = some
      { volume := ⟨15, 15, 15, 15⟩, toneReload := ⟨0, 0, 0⟩, channelSelect := 0, volumeOrTone := false,
        noiseMode := false, noiseRate := 0, noiseShiftRegister := 0x4000, clock := ⟨1, 1, 1⟩, noiseClock := 32,
        phase := ⟨false, false, false⟩, noiseBit := false, panning := 255, sampleClockDivider := 0,
        currentSampleLeft := 0, currentSampleRight := 0 } := by decide
  simp [Instr.wellFormed, Image.acceptable, h, ImageValues.inRange, PerChannel.all, PerTone.all, between, lfsrW]

/-- Missing values, arrays of the wrong length, unbalanced nesting (R146). -/
theorem test_wf_malformed_refused :
    [ { img0 with balanced := false }, { img0 with volume := none }, { img0 with volume := some [15, 15, 15] },
      { img0 with toneReload := some [0, 0, 0, 0] }, { img0 with channelSelect := none },
      { img0 with volumeOrTone := none }, { img0 with noiseMode := none }, { img0 with noiseRate := none },
      { img0 with noiseShiftRegister := none }, { img0 with clock := some [1, 1] }, { img0 with noiseClock := none },
      { img0 with phase := some [] }, { img0 with noiseBit := none }, { img0 with panning := none },
      { img0 with sampleClockDivider := none }, { img0 with currentSampleLeft := none },
      { img0 with currentSampleRight := none } ].all (fun i => !(Instr.load i).wellFormed) = true := by decide

/-- Each range of R148, one past each end. -/
theorem test_wf_range_refused :
    [ { img0 with volume := some [16, 0, 0, 0] }, { img0 with volume := some [0, 0, 0, -1] },
      { img0 with toneReload := some [0, 1024, 0] }, { img0 with channelSelect := some 4 },
      { img0 with noiseRate := some (-1) }, { img0 with noiseShiftRegister := some 0x8000 },
      { img0 with clock := some [0, 1, 1] }, { img0 with clock := some [1, 1, 1025] },
      { img0 with noiseClock := some 0 }, { img0 with noiseClock := some 2049 }, { img0 with panning := some 256 },
      { img0 with sampleClockDivider := some 16 }, { img0 with currentSampleLeft := some (-1) } ].all
      (fun i => !(Instr.load i).wellFormed) = true := by decide

/-- A sample one past `1020 * MIX_SCALE`, whatever `MIX_SCALE` is (I8). -/
theorem test_wf_sample_refused :
    (Instr.load { img0 with currentSampleRight := some (1020 * (Config.mixScale : Int) + 1) }).wellFormed = false := by
  have h : ({ img0 with currentSampleRight := some (1020 * (Config.mixScale : Int) + 1) } : Image).values? = some
      { volume := ⟨15, 15, 15, 15⟩, toneReload := ⟨0, 0, 0⟩, channelSelect := 0, volumeOrTone := false,
        noiseMode := false, noiseRate := 0, noiseShiftRegister := 0x4000, clock := ⟨1, 1, 1⟩, noiseClock := 32,
        phase := ⟨false, false, false⟩, noiseBit := false, panning := 255, sampleClockDivider := 0,
        currentSampleLeft := 0, currentSampleRight := 1020 * (Config.mixScale : Int) + 1 } := rfl
  simp [Instr.wellFormed, Image.acceptable, h, ImageValues.inRange, between]

theorem test_wf_port_map_refused : (⟨0x7F, 0x7F, 0⟩ : PortMap).wellFormed = false := by decide

/-! ### Decoding, bit by bit (30_encoding.md R61, R63, R64, section 3) -/

theorem test_decode_latch_tone :
    decode 3 true (.write 0b10000101) = .latchToneA 0b0101 ∧ decode 0 true (.write 0b10101111) = .latchToneB 0b1111 ∧
    decode 0 true (.write 0b11000001) = .latchToneC 0b0001 := by decide

theorem test_decode_latch_volume :
    decode 3 false (.write 0b10010000) = .latchVolA 0 ∧ decode 0 false (.write 0b10111110) = .latchVolB 0b1110 ∧
    decode 0 false (.write 0b11010111) = .latchVolC 0b0111 ∧ decode 0 false (.write 0b11110100) = .latchVolN 0b0100 := by
  decide

/-- Bit 2 is the mode, bits 1-0 the rate, bit 3 ignored. -/
theorem test_decode_latch_noise :
    decode 0 true (.write 0b11100101) = .latchNoise true 0b01 ∧ decode 0 true (.write 0b11101101) = .latchNoise true 0b01 ∧
    decode 0 true (.write 0b11100010) = .latchNoise false 0b10 := by decide

/-- One byte under the three kinds of latch (R63). -/
theorem test_decode_data :
    decode 2 true (.write 0b01111100) = .dataVol 0b1100 ∧ decode 2 false (.write 0b01111100) = .dataTone 0b111100 ∧
    decode 3 false (.write 0b01111100) = .dataNoise true 0b00 ∧ decode 3 true (.write 0b01111100) = .dataVol 0b1100 := by
  decide

theorem test_decode_events :
    decode 0 false (.setpan 0b00011110) = .setpan 0x1E ∧ decode 0 false .read = .read ∧
    decode 0 false .advance = .advance ∧ decode 0 false .reset = .reset ∧ decode 0 false .save = .save ∧
    decode 0 false (.load img0) = .load img0 := by decide

theorem test_table_word :
    decodeTableWord 8 0x85 = some (.latchToneA 5) ∧ decodeTableWord 8 0x3F = some (.dataTone 0x3F) ∧
    decodeTableWord 8 0x100 = none ∧ decodeTableWord 16 0x85 = none := by decide

/-- `withFetchWord` puts the byte where `step` takes its next event. -/
theorem test_fetch_word : step (State.reset.withFetchWord 8 0xD7) = exec (.latchVolC 7) State.reset := rfl

/-! ### Register writes (95_test_vectors.md 2.1, 2.2) -/

theorem test_latchToneA : wrote { rst with toneReload := ⟨0x3A7, 0, 0⟩ } 0x85 = some { rst with toneReload := ⟨0x3A5, 0, 0⟩ } := by
  decide

theorem test_latchToneB :
    wrote rst 0xAF = some { rst with toneReload := ⟨0, 0x00F, 0⟩, channelSelect := 1, volumeOrTone := false } := by decide

theorem test_latchToneC : wrote { rst with toneReload := ⟨0, 0, 0x120⟩ } 0xC1 =
    some { rst with toneReload := ⟨0, 0, 0x121⟩, channelSelect := 2, volumeOrTone := false } := by decide

theorem test_latchNoise : wrote { rst with noiseShiftRegister := 0x1234, noiseBit := true, noiseClock := 20 } 0xED =
    some { rst with noiseShiftRegister := 0x4000, noiseBit := true, noiseClock := 20, noiseMode := true, noiseRate := 1,
                    channelSelect := 3, volumeOrTone := false } := by decide

theorem test_latchNoise_reseeds_unconditionally : (wrote { rst with noiseShiftRegister := 0x1234 } 0xE0).map
    (fun c => (c.noiseMode, c.noiseRate, c.noiseShiftRegister)) = some (false, 0, 0x4000) := by decide

theorem test_latchVolA : wrote rst 0x90 = some { rst with volume := ⟨0, 15, 15, 15⟩, volumeOrTone := true } := by decide

theorem test_latchVolB : wrote rst 0xBF = some { rst with channelSelect := 1, volumeOrTone := true } := by decide

theorem test_latchVolC : wrote rst 0xD7 =
    some { rst with volume := ⟨15, 15, 7, 15⟩, channelSelect := 2, volumeOrTone := true } := by decide

theorem test_latchVolN_no_reseed : wrote { rst with noiseShiftRegister := 0x1234 } 0xF4 =
    some { rst with noiseShiftRegister := 0x1234, volume := ⟨15, 15, 15, 4⟩, channelSelect := 3, volumeOrTone := true } := by
  decide

theorem test_dataVol : wrote { rst with channelSelect := 2, volumeOrTone := true } 0x7C =
    some { rst with volume := ⟨15, 15, 12, 15⟩, channelSelect := 2, volumeOrTone := true } := by decide

theorem test_dataVol_noise : (wrote { rst with channelSelect := 3, volumeOrTone := true, noiseShiftRegister := 0x1234 } 0x05).map
    (fun c => (c.volume.noise, c.noiseShiftRegister)) = some (5, 0x1234) := by decide

/-- The first data byte after reset goes to tone A (R47). -/
theorem test_dataTone_first : wrote rst 0x3F = some { rst with toneReload := ⟨0x3F0, 0, 0⟩ } := by decide

theorem test_dataTone_bit6 : (wrote { rst with toneReload := ⟨0x005, 0, 0⟩ } 0x7F).map (·.toneReload.a) = some 0x3F5 := by
  decide

theorem test_dataNoise : wrote { rst with channelSelect := 3, noiseShiftRegister := 1 } 0x7F =
    some { rst with channelSelect := 3, noiseShiftRegister := 0x4000, noiseMode := true, noiseRate := 3 } := by decide

/-! ### The clock step (95_test_vectors.md 2.3 to 2.6) -/

theorem test_advance_no_tick : after { rst with sampleClockDivider := 14 } .advance =
    some { rst with sampleClockDivider := 15 } := by decide

/-- The first tick after reset: every tone counter fires. -/
theorem test_advance_tick : (ticked rst).map (fun c => (c.sampleClockDivider, c.clock, c.phase, c.noiseClock)) =
    some (0, ⟨1, 1, 1⟩, ⟨true, true, true⟩, 31) := by decide

/-- The longest period, and a counter that does not fire. -/
theorem test_tone_reload : (ticked { rst with toneReload := ⟨0x3FF, 1, 0⟩, clock := ⟨1, 2, 1⟩ }).map
    (fun c => (c.clock, c.phase)) = some (⟨1024, 1, 1⟩, ⟨true, false, true⟩) := by decide

/-- The reload for each rate, at both ends of the period of tone C (2.5). -/
theorem test_noise_reload :
    [(0, 0), (1, 0x3FF), (2, 0), (3, 0), (3, 3), (3, 0x35), (3, 0x3FF)].map
      (fun rp => (ticked { rst with noiseClock := 1, noiseRate := rp.1, toneReload := ⟨0, 0, rp.2⟩ }).map (·.noiseClock)) =
    [32, 64, 128, 2, 8, 108, 2048].map some := by decide

/-- Single shifts in periodic mode (2.4): sampled bit and register. -/
theorem test_shift_periodic :
    [0x0001, 0x0002, 0x0003, 0x7FFF, 0x0000].map (fun x =>
      (ticked { rst with noiseClock := 1, noiseMode := false, noiseShiftRegister := x }).map
        (fun c => (c.noiseBit, c.noiseShiftRegister))) =
    [(true, 0x4000), (false, 0x0001), (true, 0x4001), (true, 0x7FFF), (false, 0x2000)].map some := by decide

/-- Single shifts in LFSR mode (2.4). -/
theorem test_shift_lfsr :
    [0x0001, 0x0002, 0x0003, 0x7FFF, 0x0000].map (fun x =>
      (ticked { rst with noiseClock := 1, noiseMode := true, noiseShiftRegister := x }).map
        (fun c => (c.noiseBit, c.noiseShiftRegister))) =
    [(true, 0x4000), (false, 0x4001), (true, 0x0001), (true, 0x3FFF), (false, 0x2000)].map some := by decide

/-- Every channel on, volumes 0, 1, 2, 3, with a mask: the input of the table of single panning bits (2.6). -/
def allOn (p : Byte) : ChipState :=
  { rst with volume := ⟨0, 1, 2, 3⟩, phase := ⟨true, true, true⟩, noiseBit := true, panning := p }

/-- What `Mix` computes. -/
def mixed (c : ChipState) : Nat × Nat := (c.mix.currentSampleLeft, c.mix.currentSampleRight)

/-- One panning bit at a time, right side (R131). -/
theorem test_pan_right (m : Nat) (hm : Config.mixScale = m) :
    mixed (allOn 0x01) = (0, 255 * m) ∧ mixed (allOn 0x02) = (0, 203 * m) ∧ mixed (allOn 0x04) = (0, 161 * m) ∧
    mixed (allOn 0x08) = (0, 128 * m) := by
  simp [mixed, allOn, ChipState.mix, ChipState.mixSide, ChipState.contribution, ChipState.isOn, panBit, PerChannel.get,
    volEntry, volTable, hm]

/-- One panning bit at a time, left side; bit 7 is noise to left (90_conflicts.md C4). -/
theorem test_pan_left (m : Nat) (hm : Config.mixScale = m) :
    mixed (allOn 0x10) = (255 * m, 0) ∧ mixed (allOn 0x20) = (203 * m, 0) ∧ mixed (allOn 0x40) = (161 * m, 0) ∧
    mixed (allOn 0x80) = (128 * m, 0) := by
  simp [mixed, allOn, ChipState.mix, ChipState.mixSide, ChipState.contribution, ChipState.isOn, panBit, PerChannel.get,
    volEntry, volTable, hm]

/-- Rows 4, 5 and 6 of the mixer table (2.6). -/
theorem test_mix_rows (m : Nat) (hm : Config.mixScale = m) :
    mixed { allOn 0xFF with volume := ⟨0, 5, 10, 14⟩ } = (377 * m, 377 * m) ∧
    mixed { allOn 0xFF with volume := ⟨0, 5, 10, 14⟩, phase := ⟨true, false, true⟩, noiseBit := false } =
      (281 * m, 281 * m) ∧
    mixed { allOn 0xA5 with volume := ⟨0, 5, 10, 14⟩ } = (96 * m, 281 * m) := by
  simp [mixed, allOn, ChipState.mix, ChipState.mixSide, ChipState.contribution, ChipState.isOn, panBit, PerChannel.get,
    volEntry, volTable, hm]
  omega

/-! ### Panning, read, reset, save, load (95_test_vectors.md 2.7 to 2.9) -/

theorem test_setpan : after { rst with currentSampleLeft := 255, currentSampleRight := 255 } (.setpan 0x10) =
    some { rst with panning := 0x10, currentSampleLeft := 255, currentSampleRight := 255 } := by decide

theorem test_read : (match (on rst).apply .read with | .next t => t.reply | _ => none) = some (.byte 0xFF) ∧
    after rst .read = some rst := by decide

theorem test_reset : after (allOn 0x55) .reset = some rst := by decide

theorem test_save : (match (on rst).apply .save with | .next t => t.reply | _ => none) = some (.image img0) := by decide

theorem test_load_repairs_zero_register :
    ∃ t, (on (allOn 0)).apply (.load { img0 with noiseShiftRegister := some 0 }) = .next t ∧
      t.chip.noiseShiftRegister = 0x4000 := by
  have h : ({ img0 with noiseShiftRegister := some 0 } : Image).values? = some
      { volume := ⟨15, 15, 15, 15⟩, toneReload := ⟨0, 0, 0⟩, channelSelect := 0, volumeOrTone := false,
        noiseMode := false, noiseRate := 0, noiseShiftRegister := 0, clock := ⟨1, 1, 1⟩, noiseClock := 32,
        phase := ⟨false, false, false⟩, noiseBit := false, panning := 255, sampleClockDivider := 0,
        currentSampleLeft := 0, currentSampleRight := 0 } := by decide
  have hr : (Image.values? { img0 with noiseShiftRegister := some 0 }).map ImageValues.inRange = some true := by
    simp [h, ImageValues.inRange, PerChannel.all, PerTone.all, between, lfsrW]
  simp only [h, Option.map_some, Option.some.injEq] at hr
  exact ⟨_, by simp only [State.apply, State.decodeEvent, decode, exec, execLoad, h, hr, if_true]; rfl, rfl⟩

theorem test_load_zero_counter_refused :
    stops (on rst) (.load { img0 with clock := some [0, 1, 1] }) = some .imageOutsideInvariants := by decide

/-- After a failed load only `RESET` and `LOAD` have a meaning (R144). -/
theorem test_failed_load :
    stops { on rst with usable := false } .read = some .unusableState ∧
    stops { on rst with usable := false } .advance = some .unusableState ∧
    stops { on rst with usable := false } .reset = none := by decide

/-! ### Witnesses: states and operands that meet the hypotheses of each statement -/

/-- A state in the middle of a run: every counter about to fire, every channel on. -/
def busy : State :=
  on { rst with
    volume := ⟨0, 0, 0, 0⟩, toneReload := ⟨53, 1, 1023⟩, clock := ⟨1, 1, 1⟩, noiseClock := 1, noiseRate := 3,
    noiseMode := true, noiseShiftRegister := 3, sampleClockDivider := 15 }

theorem witness_DecodeEncodeRoundTrip :
    (Instr.dataVol 9).selectedBy 3 true = true ∧ (Instr.dataTone 63).selectedBy 2 false = true ∧
    (Instr.dataNoise true 3).selectedBy 3 false = true ∧ (Instr.latchNoise true 3).selectedBy 0 true = true ∧
    (Instr.load img0).selectedBy 0 false = true := by decide

theorem witness_usable : busy.usable = true ∧ State.reset.usable = true := by decide

theorem witness_busy_inv : busy.chip.Inv where
  i1 := by decide
  i2 := by decide
  i3 := fun k => by cases k <;> decide
  i4 := fun k => by cases k <;> decide
  i5 := fun k => by cases k <;> decide
  i6 := by decide
  i7 := by decide
  i8 := ⟨Nat.zero_le _, Nat.zero_le _⟩

theorem witness_StepKeepsInvariants :
    ∃ t, ({ busy with events := [.advance] } : State).Inv ∧ step { busy with events := [.advance] } = .next t :=
  ⟨_, fun _ => witness_busy_inv, rfl⟩

theorem witness_OpcodeMapRows :
    (0x7F#8).getLsbD 7 = false ∧ (0x00#8).getLsbD 7 = false ∧ (2 : BitVec 2) ≠ 3 := by decide

theorem witness_LatchDecidesDataBytes :
    (0x80#8).getLsbD 7 = true ∧ (0x7F#8).getLsbD 7 = false ∧
    ∃ t, busy.apply (.write 0x7F) = .next t ∧ (∀ b, HostEvent.write 0x7F = .write b → b.getLsbD 7 = false) ∧
      HostEvent.write 0x7F ≠ .reset ∧ ∀ img, HostEvent.write 0x7F ≠ .load img :=
  ⟨rfl, rfl, _, rfl, fun _ h => by cases h; rfl, by simp, by simp⟩

theorem witness_StepRunsNextEvent :
    ({ busy with events := [.read, .advance] } : State).events = .read :: [.advance] ∧ busy.events = [] := ⟨rfl, rfl⟩

theorem witness_RunAppliesEvents :
    ({ busy with events := [.read, .advance] } : State).events = [.read] ++ [.advance] := rfl

theorem witness_ChipEventsNeverFail :
    ({ busy with events := [.advance] } : State).usable = true ∧
    ({ busy with events := [.advance] } : State).chip.Inv ∧
    ({ busy with events := [.advance] } : State).events = .advance :: [] ∧ HostEvent.advance ≠ .save ∧
    ∀ img, HostEvent.advance ≠ .load img := ⟨rfl, witness_busy_inv, rfl, by simp, by simp⟩

theorem witness_StepRefusesOnly :
    step { busy with usable := false, events := [.save] } = .refused .unusableState ∧
    step { busy with events := [.load { img0 with noiseClock := some 2049 }] } = .refused .imageOutsideInvariants :=
  ⟨rfl, rfl⟩

theorem witness_bit7 : (0x80#8).getLsbD 7 = true ∧ (0xFF#8).getLsbD 7 = true ∧ (0x00#8).getLsbD 7 = false ∧
    (0x7F#8).getLsbD 7 = false := by decide

theorem witness_LatchToneCommands :
    (0x80#8).extractLsb' 4 4 = 0x8#4 ∧ (0xAF#8).extractLsb' 4 4 = 0xA#4 ∧ (0xC1#8).extractLsb' 4 4 = 0xC#4 := by decide

theorem witness_LatchVolumeCommands :
    (0x9F#8).extractLsb' 4 4 = 0x9#4 ∧ (0xB0#8).extractLsb' 4 4 = 0xB#4 ∧ (0xD7#8).extractLsb' 4 4 = 0xD#4 ∧
    (0xFF#8).extractLsb' 4 4 = 0xF#4 := by decide

/-- A latch for each kind of data write: noise control, a volume, a tone period. -/
def latched (q : BitVec 2) (v : Bool) : State := on { rst with channelSelect := q, volumeOrTone := v }

theorem witness_data_commands :
    ((latched 3 false).usable = true ∧ (latched 3 false).chip.volumeOrTone = false ∧
      (latched 3 false).chip.channelSelect = 3) ∧
    ((latched 3 true).usable = true ∧ (latched 3 true).chip.volumeOrTone = true) ∧
    ((latched 2 false).usable = true ∧ (latched 2 false).chip.volumeOrTone = false ∧
      (latched 2 false).chip.channelSelect ≠ 3) := by decide

theorem witness_DataCommandsNeedTheirLatch :
    (latched 2 false).chip.volumeOrTone = false ∧ (latched 0 true).chip.volumeOrTone = true ∧
    (latched 3 false).chip.channelSelect = 3 ∧ (latched 2 false).chip.channelSelect ≠ 3 := by decide

theorem witness_TonePeriodEitherOrder :
    (latched 2 false).usable = true ∧ (latched 2 false).chip.channelSelect = ToneChannel.c.index ∧
    (latched 2 false).chip.volumeOrTone = false := by decide

theorem witness_WriteReaches :
    ∃ t u, busy.apply (.write 0xEF) = .next t ∧ t.chip.channelSelect = 3 ∧ t.chip.volumeOrTone = false ∧
      busy.apply (.write 0xF0) = .next u ∧ u.chip.volumeOrTone = true := ⟨_, _, rfl, rfl, rfl, rfl, rfl⟩

theorem witness_ImmediateRepeatIsIdle :
    ∃ t u v, busy.apply (.write 0xE4) = .next t ∧ busy.apply (.setpan 1) = .next u ∧ busy.apply .read = .next v :=
  ⟨_, _, _, rfl, rfl, rfl⟩

theorem witness_WritesDetermineRegisters :
    busy.chip.programmed = (on { busy.chip with noiseBit := true }).chip.programmed ∧
    (∀ e ∈ [HostEvent.write 0x85, .advance, .write 3], e = .advance ∨ ∃ b, e = .write b) ∧
    (∀ e ∈ [HostEvent.write 0x85, .write 3], e = .advance ∨ ∃ b, e = .write b) ∧
    [HostEvent.write 0x85, .advance, .write 3].filter (· != .advance) =
      [HostEvent.write 0x85, .write 3].filter (· != .advance) :=
  ⟨rfl, by simp, by simp, rfl⟩

theorem witness_SamplesChangeOnlyAtTicks :
    ∃ t u, (on { rst with sampleClockDivider := 14 }).apply .advance = .next t ∧ busy.apply (.setpan 0) = .next u :=
  ⟨_, _, rfl, rfl⟩

theorem witness_DividerMakesTicks :
    State.reset.chip.sampleClockDivider + 15 ≤ 15 ∧ busy.chip.sampleClockDivider ≤ 15 ∧
    busy.chip.sampleClockDivider = 15 ∧ ∃ t, busy.apply (.write 0x80) = .next t := ⟨by decide, by decide, rfl, _, rfl⟩

/-- The pulse that ticks, with each counter firing and not firing, and each rate. -/
theorem witness_tick :
    (busy.usable = true ∧ busy.chip.sampleClockDivider = 15 ∧ (∀ k, busy.chip.clock.get k - 1 = 0) ∧
      busy.chip.noiseClock - 1 = 0 ∧ busy.chip.noiseRate = 3 ∧ busy.chip.lfsrMode = true) ∧
    ((on { rst with clock := ⟨2, 1024, 2⟩, sampleClockDivider := 15 }).chip.clock.get .a - 1 ≠ 0 ∧
      rst.noiseClock - 1 ≠ 0 ∧ rst.noiseRate = 0 ∧ rst.lfsrMode = false) :=
  ⟨⟨rfl, rfl, fun k => by cases k <;> rfl, rfl, rfl, rfl⟩, by decide⟩

/-- A firing noise counter under each rate, in each mode, with every register value, the zero one too. -/
theorem witness_noise_fire (q : BitVec 2) (m : Bool) (x : Lfsr) :
    let s := on { busy.chip with noiseRate := q, noiseMode := m, noiseShiftRegister := x }
    s.usable = true ∧ s.chip.sampleClockDivider = 15 ∧ s.chip.noiseClock - 1 = 0 ∧ s.chip.noiseRate = q ∧
      s.chip.noiseMode = m ∧ s.chip.noiseShiftRegister = x := ⟨rfl, rfl, rfl, rfl, rfl, rfl⟩

theorem witness_AdvanceLeavesRegisters :
    ∃ t u, exec .advance busy = .next t ∧ exec .advance State.reset = .next u ∧
      State.reset.chip.sampleClockDivider ≠ 15 := ⟨_, _, rfl, rfl, by decide⟩

theorem witness_VolumeTableEntries : (0 : VolIndex).toNat < (15 : VolIndex).toNat := by decide

/-- A block just after a tick on which tone A and the noise counter reloaded. -/
def reloaded (n : Period) (x : Int) (q : BitVec 2) (y : Int) : State :=
  on { rst with toneReload := ⟨n, n, n⟩, clock := ⟨x, x, x⟩, noiseRate := q, noiseClock := y }

theorem witness_ToneHalfCycle :
    (reloaded 1023 1024 0 32).usable = true ∧ (reloaded 1023 1024 0 32).chip.sampleClockDivider = 0 ∧
    1023 = ((reloaded 1023 1024 0 32).chip.toneReload.get .b).toNat ∧
    (reloaded 1023 1024 0 32).chip.clock.get .b = ((1023 : Nat) : Int) + 1 := by decide

theorem witness_SmallPeriodsKeepRunning :
    ((reloaded 0 1 0 32).chip.toneReload.get .a = 0 ∧ (reloaded 0 1 0 32).chip.clock.get .a = 1) ∧
    ((reloaded 1 2 0 32).chip.toneReload.get .c = 1 ∧ (reloaded 1 2 0 32).chip.clock.get .c = 2) ∧
    (reloaded 5 1 0 32).chip.clock.get .b = ((0 : Nat) : Int) + 1 ∧
    (reloaded 5 1024 0 32).chip.clock.get .b = ((1023 : Nat) : Int) + 1 ∧
    (reloaded 1 2 0 32).chip.sampleClockDivider = 0 := by decide

theorem witness_NoiseFireInterval :
    2048 = (if (reloaded 1023 1 3 2048).chip.noiseRate = 0 then 32 else if (reloaded 1023 1 3 2048).chip.noiseRate = 1 then 64
      else if (reloaded 1023 1 3 2048).chip.noiseRate = 2 then 128
      else 2 * ((reloaded 1023 1 3 2048).chip.toneReload.c.toNat + 1)) ∧
    (reloaded 1023 1 3 2048).chip.noiseClock = ((2048 : Nat) : Int) ∧
    (reloaded 1023 1 3 2048).chip.noiseShiftRegister ≠ 0 := by decide

/-- A noise counter just reloaded under each fixed rate. -/
theorem witness_NoiseFireInterval_fixed :
    [((0 : BitVec 2), 32), (1, 64), (2, 128)].all (fun qn =>
      ((reloaded 0 1 qn.1 qn.2).chip.noiseClock == qn.2) && (reloaded 0 1 qn.1 qn.2).chip.noiseRate == qn.1 &&
        (reloaded 0 1 qn.1 qn.2).usable && (reloaded 0 1 qn.1 qn.2).chip.sampleClockDivider == 0) = true := by decide

theorem witness_SilentChannelAddsNothing :
    (on { rst with sampleClockDivider := 15 }).chip.volume.get ToneChannel.b.toChannel = 15 ∧
    (∀ i < 8, i ≠ ToneChannel.b.index.toNat → i ≠ 4 + ToneChannel.b.index.toNat →
      (0b11011101#8).getLsbD i = rst.panning.getLsbD i) ∧
    rst.volume.noise = 15 ∧ (∀ i < 8, i ≠ 3 → i ≠ 7 → (0b01110111#8).getLsbD i = rst.panning.getLsbD i) := by decide

theorem witness_EmptyMaskMutes :
    (on { busy.chip with panning := 0 }).usable = true ∧ (on { busy.chip with panning := 0 }).chip.sampleClockDivider = 15 ∧
    (on { busy.chip with panning := 0 }).chip.panning = 0 := by decide

theorem witness_SidesAreIndependent :
    (0xF3#8).extractLsb' 4 4 = busy.chip.panning.extractLsb' 4 4 ∧
    (0x3F#8).extractLsb' 0 4 = busy.chip.panning.extractLsb' 0 4 := by decide

theorem witness_LoudestSample :
    ∃ t, busy.chip.sampleClockDivider = 15 ∧ busy.chip.volume = ⟨0, 0, 0, 0⟩ ∧ busy.chip.panning = 0xFF ∧
      exec .advance busy = .next t ∧ t.chip.phase = ⟨true, true, true⟩ ∧ t.chip.noiseBit = true :=
  ⟨_, rfl, rfl, rfl, rfl, by decide, by decide⟩

theorem witness_LatchToDataWindow :
    busy.usable = true ∧ busy.chip.sampleClockDivider = 15 ∧ busy.chip.clock.get .c = 1 := by decide

/-- Image values at a boundary of each range. -/
def edge (hi : Bool) : ImageValues :=
  if hi then
    { volume := ⟨15, 15, 15, 15⟩, toneReload := ⟨1023, 1023, 1023⟩, channelSelect := 3, volumeOrTone := true,
      noiseMode := true, noiseRate := 3, noiseShiftRegister := 0x7FFF, clock := ⟨1024, 1024, 1024⟩, noiseClock := 2048,
      phase := ⟨true, true, true⟩, noiseBit := true, panning := 255, sampleClockDivider := 15,
      currentSampleLeft := 1020 * Config.mixScale, currentSampleRight := 1020 * Config.mixScale }
  else
    { volume := ⟨0, 0, 0, 0⟩, toneReload := ⟨0, 0, 0⟩, channelSelect := 0, volumeOrTone := false,
      noiseMode := false, noiseRate := 0, noiseShiftRegister := 0, clock := ⟨1, 1, 1⟩, noiseClock := 1,
      phase := ⟨false, false, false⟩, noiseBit := false, panning := 0, sampleClockDivider := 0,
      currentSampleLeft := 0, currentSampleRight := 0 }

/-- The image with the given values. -/
def imageOf (v : ImageValues) : Image where
  balanced := true
  volume := some v.volume.toList
  toneReload := some v.toneReload.toList
  channelSelect := some v.channelSelect
  volumeOrTone := some v.volumeOrTone
  noiseMode := some v.noiseMode
  noiseRate := some v.noiseRate
  noiseShiftRegister := some v.noiseShiftRegister
  clock := some v.clock.toList
  noiseClock := some v.noiseClock
  phase := some v.phase.toList
  noiseBit := some v.noiseBit
  panning := some v.panning
  sampleClockDivider := some v.sampleClockDivider
  currentSampleLeft := some v.currentSampleLeft
  currentSampleRight := some v.currentSampleRight

/-- Both ends of every range are accepted, the zero register among them. -/
theorem witness_LoadOverwritesEveryElement (hi : Bool) :
    (imageOf (edge hi)).values? = some (edge hi) ∧ (edge hi).inRange = true := by
  refine ⟨rfl, ?_⟩
  cases hi <;> simp [edge, ImageValues.inRange, PerChannel.all, PerTone.all, between, lfsrW]

theorem witness_ImageInsideInvariantsAccepted (hi : Bool) :
    (imageOf (edge hi)).values? = some (edge hi) ∧ (∀ k, 0 ≤ (edge hi).volume.get k ∧ (edge hi).volume.get k ≤ 15) ∧
    (∀ k, 0 ≤ (edge hi).toneReload.get k ∧ (edge hi).toneReload.get k ≤ 1023) ∧
    (0 ≤ (edge hi).channelSelect ∧ (edge hi).channelSelect ≤ 3) ∧ (0 ≤ (edge hi).noiseRate ∧ (edge hi).noiseRate ≤ 3) ∧
    (0 ≤ (edge hi).noiseShiftRegister ∧ (edge hi).noiseShiftRegister < 2 ^ 15) ∧
    (∀ k, 1 ≤ (edge hi).clock.get k ∧ (edge hi).clock.get k ≤ 1024) ∧
    (1 ≤ (edge hi).noiseClock ∧ (edge hi).noiseClock ≤ 2048) ∧ (0 ≤ (edge hi).panning ∧ (edge hi).panning ≤ 255) ∧
    (0 ≤ (edge hi).sampleClockDivider ∧ (edge hi).sampleClockDivider ≤ 15) ∧
    (0 ≤ (edge hi).currentSampleLeft ∧ (edge hi).currentSampleLeft ≤ 1020 * Config.mixScale) ∧
    (0 ≤ (edge hi).currentSampleRight ∧ (edge hi).currentSampleRight ≤ 1020 * Config.mixScale) := by
  refine ⟨rfl, fun k => ?_, fun k => ?_, ?_, ?_, ?_, fun k => ?_, ?_, ?_, ?_, ?_, ?_⟩ <;> cases hi <;>
    simp [edge] <;> cases k <;> decide

/-- One past an end of each range, the sample among them. -/
theorem witness_ImageOutsideInvariantsRefused :
    (imageOf { edge true with noiseClock := 2049 }).values? = some { edge true with noiseClock := 2049 } ∧
    ¬ (1 ≤ ({ edge true with noiseClock := 2049 } : ImageValues).noiseClock ∧
       ({ edge true with noiseClock := 2049 } : ImageValues).noiseClock ≤ 2048) ∧
    ¬ (1 ≤ ({ edge false with clock := ⟨1, 0, 1⟩ } : ImageValues).clock.get .b) ∧
    ¬ ((1020 * Config.mixScale + 1 : Int) ≤ 1020 * Config.mixScale) := by
  refine ⟨rfl, by decide, by decide, by omega⟩

/-- One malformed image for each clause. -/
theorem witness_MalformedLoadRaises :
    ({ img0 with balanced := false } : Image).balanced = false ∧
    (∀ xs, ({ img0 with volume := some [1, 2, 3] } : Image).volume = some xs → xs.length ≠ 4) ∧
    (∀ xs, ({ img0 with toneReload := some [1, 2, 3, 4] } : Image).toneReload = some xs → xs.length ≠ 3) ∧
    ({ img0 with channelSelect := none } : Image).channelSelect = none ∧
    ({ img0 with volumeOrTone := none } : Image).volumeOrTone = none ∧
    ({ img0 with noiseMode := none } : Image).noiseMode = none ∧
    ({ img0 with noiseRate := none } : Image).noiseRate = none ∧
    ({ img0 with noiseShiftRegister := none } : Image).noiseShiftRegister = none ∧
    (∀ xs, ({ img0 with clock := none } : Image).clock = some xs → xs.length ≠ 3) ∧
    ({ img0 with noiseClock := none } : Image).noiseClock = none ∧
    (∀ xs, ({ img0 with phase := some [] } : Image).phase = some xs → xs.length ≠ 3) ∧
    ({ img0 with noiseBit := none } : Image).noiseBit = none ∧
    ({ img0 with panning := none } : Image).panning = none ∧
    ({ img0 with sampleClockDivider := none } : Image).sampleClockDivider = none ∧
    ({ img0 with currentSampleLeft := none } : Image).currentSampleLeft = none ∧
    ({ img0 with currentSampleRight := none } : Image).currentSampleRight = none := by simp

theorem witness_UnusableStateRefuses :
    ({ busy with usable := false } : State).usable = false ∧ HostEvent.advance ≠ .reset ∧
    ∀ img, HostEvent.advance ≠ .load img := ⟨rfl, by simp, by simp⟩

theorem witness_SaveLoadRoundTrip :
    busy.usable = true ∧ busy.chip.Inv ∧
    ∀ img', HostEvent.load img' ∈ [HostEvent.write 0x85, .load img0, .advance] → img'.acceptable = true :=
  ⟨rfl, witness_busy_inv, fun _ h => by simp at h; subst h; exact test_wf_image⟩

theorem witness_PortMapSelectsEvents :
    (⟨0x7F, 0x06, 0x7E⟩ : PortMap).wellFormed = true ∧ (0x00 : Nat) ≠ 0x7F ∧ (0x00 : Nat) ≠ 0x06 ∧ (0x00 : Nat) ≠ 0x7E := by
  decide

end Sys2Proof.Tests
end

section
/-! PROOF. What changes the latch (R69): which instructions set it, which events decode to those, and that every other
meaning keeps it. -/

namespace Sys2Proof

open Machine

/-- The instructions whose meaning sets the latch: the eight latch commands, `RESET` and `LOAD` (R69, R88). -/
def Instr.setsLatch : Instr → Bool
  | .latchToneA _ | .latchVolA _ | .latchToneB _ | .latchVolB _ | .latchToneC _ | .latchVolC _
  | .latchNoise _ _ | .latchVolN _ | .reset | .load _ => true
  | .dataVol _ | .dataTone _ | .dataNoise _ _ | .setpan _ | .read | .advance | .save => false

theorem setsLatch_decodeData (q : BitVec 2) (v : Bool) (b : Byte) : (decodeData q v b).setsLatch = false := by
  unfold decodeData
  split_ifs <;> rfl

/-- An event other than a latch byte, `RESET` and `LOAD` decodes to an instruction that does not set the latch. -/
theorem setsLatch_decode (q : BitVec 2) (v : Bool) {e : HostEvent} (hw : ∀ b, e = .write b → isLatch b = false)
    (hr : e ≠ .reset) (hl : ∀ img, e ≠ .load img) : (decode q v e).setsLatch = false := by
  cases e with
  | write b =>
    calc (decodeWrite q v b).setsLatch
      _ = (decodeData q v b).setsLatch := by rw [decodeWrite_data q v (hw b rfl)]
      _ = false := setsLatch_decodeData q v b
  | reset => exact absurd rfl hr
  | load img => exact absurd rfl (hl img)
  | setpan _ | read | advance | save => rfl

end Sys2Proof

namespace Sys2Proof.Machine

/-- The latch: the two mode bits that read a data byte (R13, R14, R69). -/
def ChipState.latched (c : ChipState) : BitVec 2 × Bool := (c.channelSelect, c.volumeOrTone)

theorem ChipState.latched_eq_iff (c d : ChipState) :
    c.latched = d.latched ↔ c.channelSelect = d.channelSelect ∧ c.volumeOrTone = d.volumeOrTone :=
  Prod.mk_inj

/-- A host clock pulse keeps the latch, with or without its tick (R97, R101). -/
theorem ChipState.pulse_latched (c : ChipState) : c.pulse.latched = c.latched := by
  rcases c.pulse_cases with ⟨-, h⟩ | ⟨-, h⟩ <;> rw [h]
  · obtain ⟨-, -, hq, hv, -⟩ := (c.setDivider 0).tick_frame
    exact (ChipState.latched_eq_iff _ _).mpr ⟨hq, hv⟩
  · rfl

theorem State.complete_keeps_latched {s t : State} {c : ChipState} {r : Option HostReply}
    (h : s.complete c r = .next t) (hc : c.latched = s.chip.latched) : t.chip.latched = s.chip.latched := by
  obtain ⟨-, rfl⟩ := (State.complete_eq_next_iff _ _ _ _).mp h
  exact hc

/-- A meaning that does not set the latch keeps it (R69). -/
theorem exec_keeps_latched {i : Instr} {s t : State} (hi : i.setsLatch = false) (h : exec i s = .next t) :
    t.chip.latched = s.chip.latched := by
  cases i with
  | dataVol _ | dataTone _ | dataNoise _ _ =>
    simp only [exec, execDataVol, execDataTone, execDataNoise] at h
    split at h
    · exact State.complete_keeps_latched h rfl
    · exact (nomatch h)
  | advance => exact State.complete_keeps_latched h s.chip.pulse_latched
  | setpan _ | read | save => exact State.complete_keeps_latched h rfl
  | _ => exact (nomatch hi)

/-- Settles O6: the decoder reads the latch for a data byte alone, and no instruction that another event decodes to
sets the latch. -/
theorem latchDecidesDataBytes : Obligations.LatchDecidesDataBytes := by
  refine ⟨fun q q' v v' b h => ?_, fun q v b h => decodeWrite_data q v h, fun s t e h hw hr hl => ?_⟩
  · exact (decodeWrite_latch q v h).trans (decodeWrite_latch q' v' h).symm
  · exact (ChipState.latched_eq_iff _ _).mp (exec_keeps_latched (setsLatch_decode _ _ hw hr hl) h)

end Sys2Proof.Machine
end

section
/-! PROOF. The two bytes of a tone period (R65): what each does to the registers, and what they assemble together. -/

namespace Sys2Proof.Machine

theorem isLatch_toneData (h : BitVec 6) : isLatch ((0 : BitVec 2) ++ h) = false := by
  revert h; decide

/-- A tone latch byte latches its channel in tone mode and writes the low nibble (R65, R80 to R82). -/
theorem apply_toneLatch (s : State) (k : ToneChannel) (lo : BitVec 4) :
    s.apply (.write (latchByte k.index false lo)) =
      s.complete ((s.chip.latch k.index false).writeToneLow k lo) none := by
  rw [State.apply, State.decodeEvent, decode, decodeWrite_latch _ _ (isLatch_latchByte _ _ _), decodeLatch]
  cases k <;> simp only [fieldCc_latchByte, fieldT_latchByte, fieldD_latchByte] <;> rfl

/-- A data byte, with a tone channel latched in tone mode, writes that channel's high six bits (R65, R93). -/
theorem apply_toneData {s : State} {k : ToneChannel} (hq : s.chip.channelSelect = k.index)
    (hv : s.chip.volumeOrTone = false) (hi : BitVec 6) :
    s.apply (.write ((0 : BitVec 2) ++ hi)) = s.complete (s.chip.writeToneHigh k hi) none := by
  have hk : k.index ≠ 3 := by cases k <;> decide
  rw [State.apply, State.decodeEvent, decode, decodeWrite_data _ _ (isLatch_toneData hi), hq, hv, decodeData,
    if_neg Bool.false_ne_true, if_neg hk, fieldH_append]
  simp [exec, execDataTone, hq, hv]

theorem State.applyAll_pair {s t u : State} {e f : HostEvent} (he : s.apply e = .next t) (hf : t.apply f = .next u) :
    s.applyAll [e, f] = .next u := by
  simp only [State.applyAll, he, hf]

/-- The registers after a tone latch byte and its data byte (R65). -/
theorem applyAll_toneBytes {s : State} (hu : s.usable = true) (k : ToneChannel) (lo : BitVec 4) (hi : BitVec 6) :
    s.applyAll [.write (latchByte k.index false lo), .write ((0 : BitVec 2) ++ hi)] =
      .next { s with
        chip := ((s.chip.latch k.index false).writeToneLow k lo).writeToneHigh k hi
        reply := none } :=
  State.applyAll_pair ((apply_toneLatch s k lo).trans (State.complete_of_usable hu _ _))
    ((apply_toneData rfl rfl hi).trans (State.complete_of_usable hu _ _))

/-- Writing both halves of a period replaces all of it, whatever it was (R65). -/
theorem ChipState.get_toneReload_writeToneLow_writeToneHigh (c : ChipState) (k : ToneChannel) (lo : BitVec 4)
    (hi : BitVec 6) : ((c.writeToneLow k lo).writeToneHigh k hi).toneReload.get k = (hi ++ lo : Period) := by
  simp

/-- The halves of a period are written to no other channel (R65). -/
theorem ChipState.get_toneReload_writeToneLow_writeToneHigh_other (c : ChipState) {k j : ToneChannel} (h : j ≠ k)
    (lo : BitVec 4) (hi : BitVec 6) :
    ((c.writeToneLow k lo).writeToneHigh k hi).toneReload.get j = c.toneReload.get j := by
  simp [PerTone.get_set_other _ h]

/-- Settles O19: the second byte keeps the first one's nibble, and each writes its own channel's period alone. -/
theorem tonePeriodAssembly : Obligations.TonePeriodAssembly := by
  intro s k lo hi hu
  refine ⟨_, applyAll_toneBytes hu k lo hi, ?_, fun j hj => ?_⟩
  · rw [ChipState.get_toneReload_writeToneLow_writeToneHigh, toNat_hiLo]
  · exact ChipState.get_toneReload_writeToneLow_writeToneHigh_other _ hj lo hi

end Sys2Proof.Machine
end

section
/-! PROOF. Latch writes (R61, R80 to R88): the eight latch commands as one family over channel and mode, what each does,
and that a latch byte is the member its fields select. -/

namespace Sys2Proof

open Machine

/-- The latch command of a channel and a mode (`true` is volume), with the byte's low nibble; noise control reads the
nibble as mode and rate (R67, R68). -/
def latchCommand (k : Channel) (t : Bool) (d : BitVec 4) : Instr :=
  match k, t with
  | .a, false => .latchToneA d
  | .a, true => .latchVolA d
  | .b, false => .latchToneB d
  | .b, true => .latchVolB d
  | .c, false => .latchToneC d
  | .c, true => .latchVolC d
  | .noise, false => .latchNoise (d.getLsbD 2) (d.extractLsb' 0 2)
  | .noise, true => .latchVolN d

theorem fieldM_eq_fieldD (b : Byte) : fieldM b = (fieldD b).getLsbD 2 := by
  simp [fieldM, fieldD]

theorem fieldR_eq_fieldD (b : Byte) : fieldR b = (fieldD b).extractLsb' 0 2 := by
  simp [fieldR, fieldD]

theorem decodeLatch_eq_latchCommand (b : Byte) :
    decodeLatch b = latchCommand (Channel.ofSelect (fieldCc b)) (fieldT b) (fieldD b) := by
  rw [decodeLatch, fieldM_eq_fieldD, fieldR_eq_fieldD]
  cases Channel.ofSelect (fieldCc b) <;> cases fieldT b <;> rfl

/-- A byte is its two nibbles. -/
theorem Byte_nibbles (b : Byte) : (b.extractLsb' 4 4 ++ b.extractLsb' 0 4 : Byte) = b :=
  (BitVec.extractLsb'_append_extractLsb'_eq_extractLsb' (by decide)).trans BitVec.extractLsb'_eq_self

/-- The high nibble `1cct` makes a byte the latch command of channel `cc` and mode `t`, under every latch (R61, R68). -/
theorem decode_of_highNibble (q : BitVec 2) (v : Bool) {b : Byte} (k : Channel) (t : Bool)
    (h : b.extractLsb' 4 4 = (1 : BitVec 1) ++ k.index ++ BitVec.ofBool t) :
    decode q v (.write b) = latchCommand k t (b.extractLsb' 0 4) := by
  have hb : b = latchByte k.index t (b.extractLsb' 0 4) := by
    rw [latchByte, ← h, Byte_nibbles]
  generalize b.extractLsb' 0 4 = d at hb ⊢
  subst hb
  calc decode q v (.write (latchByte k.index t d))
    _ = decodeLatch (latchByte k.index t d) := decodeWrite_latch q v (isLatch_latchByte _ _ _)
    _ = latchCommand k t d := by simp [decodeLatch_eq_latchCommand]

end Sys2Proof

namespace Sys2Proof.Machine

theorem Channel.index_ofSelect (q : BitVec 2) : (Channel.ofSelect q).index = q := by
  revert q; decide

/-- A selector that names a tone channel is its index, and names it among the four channels too (R10). -/
theorem ToneChannel.ofSelect?_eq_some {q : BitVec 2} {k : ToneChannel} (h : ToneChannel.ofSelect? q = some k) :
    q = k.index ∧ Channel.ofSelect q = k.toChannel := by
  revert q; cases k <;> decide

/-- A volume latch writes the volume of the channel it latches, noise included (R84 to R87). -/
theorem exec_latchCommand_volume (s : State) (k : Channel) (d : BitVec 4) :
    exec (latchCommand k true d) s = s.complete ((s.chip.latch k.index true).writeVolume k d) none := by
  cases k <;> rfl

/-- A tone latch writes the low nibble of the period it latches (R80 to R82). -/
theorem exec_latchCommand_tone (s : State) (k : ToneChannel) (d : BitVec 4) :
    exec (latchCommand k.toChannel false d) s = s.complete ((s.chip.latch k.index false).writeToneLow k d) none := by
  cases k <;> rfl

/-- A noise latch is a noise-control write (R83, R95). -/
theorem exec_latchCommand_noise (s : State) (d : BitVec 4) :
    exec (latchCommand .noise false d) s =
      s.complete ((s.chip.latch 3 false).noiseControl (d.getLsbD 2) (d.extractLsb' 0 2)) none :=
  rfl

/-- A latch byte is the latch command its fields select, whatever the latch was (R69, R88). -/
theorem apply_latchByte (s : State) {b : Byte} (h : isLatch b = true) :
    s.apply (.write b) = exec (latchCommand (Channel.ofSelect (fieldCc b)) (fieldT b) (fieldD b)) s := by
  rw [State.apply, State.decodeEvent, decode, decodeWrite_latch _ _ h, decodeLatch_eq_latchCommand]

/-- Settles O11: a latch byte's mode bit and new selector leave three commands, a volume, a period's low nibble and
noise control. -/
theorem latchWriteEffect : Obligations.LatchWriteEffect := by
  intro s b hu hb
  rw [apply_latchByte s hb]
  cases ht : b.getLsbD 4 with
  | true =>
    rw [show fieldT b = true from ht, exec_latchCommand_volume, Channel.index_ofSelect]
    exact State.complete_of_usable hu _ _
  | false =>
    rw [show fieldT b = false from ht, if_neg Bool.false_ne_true]
    cases hk : ToneChannel.ofSelect? (b.extractLsb' 5 2) with
    | some k =>
      obtain ⟨hq, hc⟩ := ToneChannel.ofSelect?_eq_some hk
      rw [fieldCc, hc, exec_latchCommand_tone, ← hq]
      exact State.complete_of_usable hu _ _
    | none =>
      have hq := (ToneChannel.ofSelect?_eq_none_iff _).mp hk
      rw [fieldCc, hq, show Channel.ofSelect 3 = .noise from rfl, exec_latchCommand_noise, ← fieldM_eq_fieldD,
        ← fieldR_eq_fieldD]
      exact State.complete_of_usable hu _ _

/-- Settles O13: the high nibbles `1000`, `1010` and `1100` are the tone latches, and each completes. -/
theorem latchToneCommands : Obligations.LatchToneCommands := by
  refine ⟨fun q v b => ?_, fun s d hu => ?_⟩
  · have h (k : Channel) := decode_of_highNibble q v (b := b) k false
    exact ⟨h .a, h .b, h .c⟩
  · have h (k : ToneChannel) := (exec_latchCommand_tone s k d).trans (State.complete_of_usable hu _ _)
    exact ⟨h .a, h .b, h .c⟩

/-- Settles O14: the high nibbles `1001`, `1011`, `1101` and `1111` are the volume latches, and each completes. -/
theorem latchVolumeCommands : Obligations.LatchVolumeCommands := by
  refine ⟨fun q v b => ?_, fun s d hu => ?_⟩
  · have h (k : Channel) := decode_of_highNibble q v (b := b) k true
    exact ⟨h .a, h .b, h .c, h .noise⟩
  · have h (k : Channel) := (exec_latchCommand_volume s k d).trans (State.complete_of_usable hu _ _)
    exact ⟨h .a, h .b, h .c, h .noise⟩

end Sys2Proof.Machine
end

section
/-! PROOF. Data writes (R91 to R95): what each of the three data commands does under the latch that selects it, and that
a data byte is the one the latch selects. -/

namespace Sys2Proof.Machine

theorem exec_dataVol {s : State} (hv : s.chip.volumeOrTone = true) (d : BitVec 4) :
    exec (.dataVol d) s = s.complete (s.chip.writeVolume (Channel.ofSelect s.chip.channelSelect) d) none :=
  if_pos hv

theorem exec_dataTone {s : State} {k : ToneChannel} (hv : s.chip.volumeOrTone = false)
    (hk : ToneChannel.ofSelect? s.chip.channelSelect = some k) (h : BitVec 6) :
    exec (.dataTone h) s = s.complete (s.chip.writeToneHigh k h) none := by
  simp only [exec, execDataTone, hv, hk]

theorem exec_dataNoise {s : State} (hv : s.chip.volumeOrTone = false) (hq : s.chip.channelSelect = 3) (m : Bool)
    (r : BitVec 2) : exec (.dataNoise m r) s = s.complete (s.chip.noiseControl m r) none :=
  if_pos ⟨hv, hq⟩

/-- A data byte is the data command the latch selects (R69, R91). -/
theorem apply_dataByte (s : State) {b : Byte} (h : isLatch b = false) :
    s.apply (.write b) = exec (decodeData s.chip.channelSelect s.chip.volumeOrTone b) s := by
  rw [State.apply, State.decodeEvent, decode, decodeWrite_data _ _ h]

/-- Settles O12: the latch leaves three commands, a volume, a period's high bits and noise control, and none of them
writes the latch. -/
theorem dataWriteEffect : Obligations.DataWriteEffect := by
  intro s b hu hb
  rw [apply_dataByte s hb, decodeData]
  cases hv : s.chip.volumeOrTone with
  | true =>
    rw [if_pos rfl, if_pos rfl, exec_dataVol hv]
    exact State.complete_of_usable hu _ _
  | false =>
    rw [if_neg Bool.false_ne_true, if_neg Bool.false_ne_true]
    cases hk : ToneChannel.ofSelect? s.chip.channelSelect with
    | some k =>
      have hq : s.chip.channelSelect ≠ 3 := fun e => by simp [(ToneChannel.ofSelect?_eq_none_iff _).mpr e] at hk
      rw [if_neg hq, exec_dataTone hv hk]
      exact State.complete_of_usable hu _ _
    | none =>
      have hq := (ToneChannel.ofSelect?_eq_none_iff _).mp hk
      rw [if_pos hq, exec_dataNoise hv hq]
      exact State.complete_of_usable hu _ _

/-- Settles O15: both commands complete with `noiseControl`, the first after it latches (3, tone). -/
theorem noiseControlCommands : Obligations.NoiseControlCommands := by
  refine fun s m r hu => ⟨State.complete_of_usable hu _ _, fun hv hq => ?_⟩
  rw [exec_dataNoise hv hq]
  exact State.complete_of_usable hu _ _

end Sys2Proof.Machine
end

section
/-! PROOF. The clock step (R101, R110, R111): runs of pulses as iterates of `pulse`, runs of ticks as iterates of
`tick`, what no other event moves, and a tone channel followed through a run of ticks. -/

namespace Sys2Proof.Machine

/-! ### Runs of pulses -/

theorem exec_advance {s : State} (hu : s.usable = true) :
    exec .advance s = .next { s with chip := s.chip.pulse, reply := none } :=
  State.complete_of_usable hu _ _

/-- A run of pulses completes, and its elements are the iterate of one pulse. -/
theorem applyAll_advanceMany {s : State} (hu : s.usable = true) (n : Nat) :
    s.applyAll (advanceMany n) = .next { s with
      chip := ChipState.pulse^[n] s.chip, reply := if n = 0 then s.reply else none } := by
  induction n generalizing s with
  | zero => rfl
  | succ n ih =>
    have hstep : s.apply .advance = .next { s with chip := s.chip.pulse, reply := none } := exec_advance hu
    have hrest := ih (s := { s with chip := s.chip.pulse, reply := none }) hu
    rw [ite_self] at hrest
    simp only [advanceMany, List.replicate_succ, State.applyAll, hstep]
    exact hrest

theorem ChipState.pulse_eq_tick {c : ChipState} (h : c.sampleClockDivider = 15) : c.pulse = (c.setDivider 0).tick := by
  obtain ⟨-, hp⟩ | ⟨hne, -⟩ := c.pulse_cases
  · exact hp
  · exact absurd h hne

theorem ChipState.pulse_eq_setDivider {c : ChipState} (h : c.sampleClockDivider ≠ 15) :
    c.pulse = c.setDivider (c.sampleClockDivider + 1) := by
  obtain ⟨he, -⟩ | ⟨-, hp⟩ := c.pulse_cases
  · exact absurd he h
  · exact hp

/-- Pulses that do not reach the sixteenth move the divider alone (R101). -/
theorem ChipState.pulse_iterate_eq_setDivider {c : ChipState} {n : Nat} (h : c.sampleClockDivider + n ≤ 15) :
    pulse^[n] c = c.setDivider (c.sampleClockDivider + n) := by
  induction n with
  | zero => rfl
  | succ n ih =>
    have hne : (c.setDivider (c.sampleClockDivider + n)).sampleClockDivider ≠ 15 := by
      rw [setDivider_sampleClockDivider]
      omega
    rw [Function.iterate_succ_apply', ih (by omega), pulse_eq_setDivider hne]
    rfl

/-- The first tick from divider `d` comes on pulse `16 - d` (R101). -/
theorem ChipState.pulse_iterate_eq_tick {c : ChipState} (h : c.sampleClockDivider ≤ 15) :
    pulse^[16 - c.sampleClockDivider] c = (c.setDivider 0).tick := by
  obtain ⟨n, hn⟩ := Nat.exists_eq_add_of_le h
  have h16 : 16 - c.sampleClockDivider = n + 1 := by omega
  rw [h16, Function.iterate_succ_apply', pulse_iterate_eq_setDivider (by omega), ← hn]
  exact pulse_eq_tick rfl

/-! ### What only the clock moves -/

/-- The elements that no event but `ADVANCE`, `RESET` and `LOAD` moves: counters, flags, divider and samples (R19 to
R22, R24, R25). -/
structure Clocked where
  clock : PerTone Int
  noiseClock : Int
  phase : PerTone Bool
  noiseBit : Bool
  sampleClockDivider : Nat
  currentSampleLeft : Nat
  currentSampleRight : Nat

/-- The elements of a state that only the clock moves. -/
def ChipState.clocked (c : ChipState) : Clocked :=
  ⟨c.clock, c.noiseClock, c.phase, c.noiseBit, c.sampleClockDivider, c.currentSampleLeft, c.currentSampleRight⟩

theorem State.complete_keeps_clocked {s t : State} {c : ChipState} {r : Option HostReply}
    (h : s.complete c r = .next t) (hc : c.clocked = s.chip.clocked) : t.chip.clocked = s.chip.clocked := by
  obtain ⟨-, rfl⟩ := (State.complete_eq_next_iff _ _ _ _).mp h
  exact hc

theorem exec_keeps_clocked {i : Instr} {s t : State} (ha : i ≠ .advance) (hr : i ≠ .reset)
    (hl : ∀ img, i ≠ .load img) (h : exec i s = .next t) : t.chip.clocked = s.chip.clocked := by
  cases i with
  | advance => exact absurd rfl ha
  | reset => exact absurd rfl hr
  | load img => exact absurd rfl (hl img)
  | dataVol _ | dataTone _ | dataNoise _ _ =>
    simp only [exec, execDataVol, execDataTone, execDataNoise] at h
    split at h
    · exact State.complete_keeps_clocked h rfl
    · exact (nomatch h)
  | _ => exact State.complete_keeps_clocked h rfl

/-- Only a clock pulse decodes to `ADVANCE`. -/
theorem decode_ne_advance (q : BitVec 2) (v : Bool) {e : HostEvent} (h : e ≠ .advance) : decode q v e ≠ .advance := by
  cases e with
  | write b =>
    simp only [decode, decodeWrite]
    split
    · unfold decodeLatch
      split <;> simp
    · unfold decodeData
      split_ifs <;> simp
  | advance => exact absurd rfl h
  | _ => simp [decode]

theorem apply_keeps_clocked {s t : State} {e : HostEvent} (ha : e ≠ .advance) (hr : e ≠ .reset)
    (hl : ∀ img, e ≠ .load img) (h : s.apply e = .next t) : t.chip.clocked = s.chip.clocked :=
  exec_keeps_clocked (decode_ne_advance _ _ ha) (decode_ne_reset _ _ hr) (decode_ne_load _ _ hl) h

/-- Settles O28: a run of pulses is an iterate of one pulse, which counts up to the sixteenth and ticks there. -/
theorem dividerMakesTicks : Obligations.DividerMakesTicks := by
  refine ⟨fun s hu => exec_advance hu, fun s n hu hn hd => ?_, fun s hu hd => ?_, fun s t e h ha hr hl => ?_⟩
  · rw [applyAll_advanceMany hu, ChipState.pulse_iterate_eq_setDivider hd, if_neg (by omega)]
    rfl
  · rw [applyAll_advanceMany hu, ChipState.pulse_iterate_eq_tick hd, if_neg (by omega)]
  · exact congrArg Clocked.sampleClockDivider (apply_keeps_clocked ha hr hl h)

/-! ### One tick of a tone channel -/

theorem toneReloadValue_eq (p : Period) : toneReloadValue p = (p.toNat : Int) + 1 := Nat.cast_succ _

@[simp] theorem ChipState.tick_toneReload (c : ChipState) : c.tick.toneReload = c.toneReload := by
  obtain ⟨-, h, -⟩ := c.tick_frame
  exact h

@[simp] theorem ChipState.tick_sampleClockDivider (c : ChipState) :
    c.tick.sampleClockDivider = c.sampleClockDivider := by
  obtain ⟨-, -, -, -, -, -, -, h⟩ := c.tick_frame
  exact h

/-- A tone counter that reaches zero inverts its phase and reloads (R110). -/
theorem ChipState.tick_tone_of_fire {c : ChipState} {k : ToneChannel} (h : c.clock.get k = 1) :
    c.tick.phase.get k = (!c.phase.get k) ∧ c.tick.clock.get k = ((c.toneReload.get k).toNat : Int) + 1 := by
  rw [tick_phase, tick_clock, if_pos h, if_pos h, toneReloadValue_eq]
  exact ⟨rfl, rfl⟩

/-- A tone counter that does not reach zero counts down and keeps its phase (R110). -/
theorem ChipState.tick_tone_of_no_fire {c : ChipState} {k : ToneChannel} (h : c.clock.get k ≠ 1) :
    c.tick.phase.get k = c.phase.get k ∧ c.tick.clock.get k = c.clock.get k - 1 := by
  rw [tick_phase, tick_clock, if_neg h, if_neg h]
  exact ⟨rfl, rfl⟩

/-- Settles O29: the pulse at divider 15 is a tick, and a decremented counter is zero when the counter was 1. -/
theorem toneCountersOnTick : Obligations.ToneCountersOnTick := by
  intro s hu hd
  refine ⟨_, exec_advance hu, ?_⟩
  simp only [ChipState.pulse_eq_tick hd]
  refine ⟨ChipState.tick_sampleClockDivider _, fun k => ⟨fun hfire => ?_, fun hkeep => ?_⟩⟩
  · have h1 : (s.chip.setDivider 0).clock.get k = 1 := Int.sub_eq_zero.mp hfire
    exact ChipState.tick_tone_of_fire h1
  · have h1 : (s.chip.setDivider 0).clock.get k ≠ 1 := fun h => hkeep (Int.sub_eq_zero.mpr h)
    exact ChipState.tick_tone_of_no_fire h1

/-! ### Runs of ticks -/

/-- Sixteen pulses from divider 0 are a tick (R101). -/
theorem ChipState.pulse_iterate_sixteen {c : ChipState} (h : c.sampleClockDivider = 0) : pulse^[16] c = c.tick := by
  have hzero : c.setDivider 0 = c := by
    rw [← h]
    rfl
  have htick := pulse_iterate_eq_tick (h.trans_le (Nat.zero_le 15))
  rwa [h, Nat.sub_zero, hzero] at htick

/-- Sixteen pulses for each tick, from divider 0 (R101). -/
theorem ChipState.pulse_iterate_eq_tick_iterate {c : ChipState} (h : c.sampleClockDivider = 0) (n : Nat) :
    pulse^[16 * n] c = tick^[n] c := by
  induction n generalizing c with
  | zero => rfl
  | succ n ih =>
    have hnext : c.tick.sampleClockDivider = 0 := by rw [tick_sampleClockDivider, h]
    calc pulse^[16 * (n + 1)] c
      _ = pulse^[16 * n] (pulse^[16] c) := by rw [Nat.mul_succ, Function.iterate_add_apply]
      _ = tick^[n] c.tick := by rw [pulse_iterate_sixteen h, ih hnext]
      _ = tick^[n + 1] c := (Function.iterate_succ_apply _ _ _).symm

/-- A run of ticks from divider 0 completes, and its elements are the iterate of one tick. -/
theorem applyAll_tickMany {s : State} (hu : s.usable = true) (hd : s.chip.sampleClockDivider = 0) (n : Nat) :
    ∃ t, s.applyAll (tickMany n) = .next t ∧ t.chip = ChipState.tick^[n] s.chip :=
  ⟨_, applyAll_advanceMany hu _, ChipState.pulse_iterate_eq_tick_iterate hd n⟩

namespace ChipState

variable {c : ChipState} {k : ToneChannel}

@[simp] theorem tick_iterate_toneReload (c : ChipState) (n : Nat) : (tick^[n] c).toneReload = c.toneReload := by
  induction n with
  | zero => rfl
  | succ n ih => rw [Function.iterate_succ_apply', tick_toneReload, ih]

/-- Until its count has run, a tone counter counts down and keeps its phase. -/
theorem tick_iterate_countdown {m j : Nat} (hc : c.clock.get k = (m : Int) + 1) (hj : j ≤ m) :
    (tick^[j] c).phase.get k = c.phase.get k ∧ (tick^[j] c).clock.get k = (m : Int) + 1 - j := by
  induction j with
  | zero => simp [hc]
  | succ j ih =>
    obtain ⟨hphase, hclock⟩ := ih (by omega)
    have hkeep : (tick^[j] c).clock.get k ≠ 1 := by omega
    obtain ⟨hphase', hclock'⟩ := tick_tone_of_no_fire hkeep
    rw [Function.iterate_succ_apply', hphase', hclock', hclock]
    exact ⟨hphase, by push_cast; omega⟩

/-- A tone counter at `m + 1` fires on tick `m + 1`, whatever its period (R111). -/
theorem tick_iterate_fire {m : Nat} (hc : c.clock.get k = (m : Int) + 1) :
    (tick^[m + 1] c).phase.get k = (!c.phase.get k) ∧
      (tick^[m + 1] c).clock.get k = ((c.toneReload.get k).toNat : Int) + 1 := by
  obtain ⟨hphase, hclock⟩ := tick_iterate_countdown hc le_rfl
  have hfire : (tick^[m] c).clock.get k = 1 := by omega
  obtain ⟨hphase', hclock'⟩ := tick_tone_of_fire hfire
  rw [Function.iterate_succ_apply', hphase', hclock', hphase, tick_iterate_toneReload]
  exact ⟨rfl, rfl⟩

/-- A counter just reloaded from period `N` is just reloaded again every `N + 1` ticks, and its phase is inverted each
time (R111, R116). -/
theorem tick_iterate_halfCycles {N : Nat} (hN : (c.toneReload.get k).toNat = N) (hc : c.clock.get k = (N : Int) + 1)
    (q : Nat) :
    (tick^[(N + 1) * q] c).phase.get k = (c.phase.get k ^^ (q % 2 == 1)) ∧
      (tick^[(N + 1) * q] c).clock.get k = (N : Int) + 1 := by
  induction q with
  | zero => simp [hc]
  | succ q ih =>
    obtain ⟨hphase, hclock⟩ := ih
    obtain ⟨hphase', hclock'⟩ := tick_iterate_fire hclock
    have hparity : ((q + 1) % 2 == 1) = !(q % 2 == 1) := by
      rcases Nat.mod_two_eq_zero_or_one q with h | h <;> simp [Nat.add_mod, h]
    rw [Nat.mul_succ, Nat.add_comm, Function.iterate_add_apply, hphase', hclock', hphase, tick_iterate_toneReload, hN,
      hparity]
    exact ⟨(Bool.xor_not _ _).symm, rfl⟩

/-- A counter just reloaded from period `N` has inverted its phase once for every `N + 1` of `n` ticks (R111, R116). -/
theorem tick_iterate_tone {N : Nat} (hN : (c.toneReload.get k).toNat = N) (hc : c.clock.get k = (N : Int) + 1)
    (n : Nat) :
    (tick^[n] c).phase.get k = (c.phase.get k ^^ (n / (N + 1) % 2 == 1)) ∧
      (tick^[n] c).clock.get k = (N : Int) + 1 - (n % (N + 1) : Nat) := by
  obtain ⟨hphase, hclock⟩ := tick_iterate_halfCycles hN hc (n / (N + 1))
  have hrest : n % (N + 1) ≤ N := Nat.le_of_lt_succ (Nat.mod_lt _ (Nat.succ_pos _))
  have hrun := tick_iterate_countdown hclock hrest
  rwa [← Function.iterate_add_apply, Nat.mod_add_div, hphase] at hrun

end ChipState

/-- Settles O37: the first two clauses are `tick_iterate_tone` at the periods 0 and 1, the third is
`tick_iterate_fire`. -/
theorem smallPeriodsKeepRunning : Obligations.SmallPeriodsKeepRunning := by
  intro s k n hu hd
  refine ⟨fun hp hc => ?_, fun hp hc => ?_, fun m hc => ?_⟩
  · obtain ⟨t, ht, htick⟩ := applyAll_tickMany hu hd n
    have hN : (s.chip.toneReload.get k).toNat = 0 := by rw [hp]; rfl
    obtain ⟨hphase, hclock⟩ := ChipState.tick_iterate_tone hN (by simp [hc]) n
    rw [← htick] at hphase hclock
    exact ⟨t, ht, by simpa [Nat.mod_one] using hclock, by simpa using hphase⟩
  · obtain ⟨t, ht, htick⟩ := applyAll_tickMany hu hd n
    have hN : (s.chip.toneReload.get k).toNat = 1 := by rw [hp]; rfl
    obtain ⟨hphase, -⟩ := ChipState.tick_iterate_tone hN (by simp [hc]) n
    rw [← htick] at hphase
    exact ⟨t, ht, hphase⟩
  · obtain ⟨t, ht, htick⟩ := applyAll_tickMany hu hd (m + 1)
    have hfire := ChipState.tick_iterate_fire hc
    rw [← htick] at hfire
    exact ⟨t, ht, hfire⟩

end Sys2Proof.Machine
end

section
/-! PROOF. The volume table (R113): it is sorted, so its entries follow the order of their indices. -/

namespace Sys2Proof.Machine

theorem volTable_strictlyDecreasing : volTable.Pairwise (· > ·) := by decide

theorem volEntry_eq_getElem (v : VolIndex) : volEntry v = volTable[v.toNat]'v.isLt :=
  List.getD_eq_getElem _ _ _

/-- Settles O34: the list of entries is the table's literal, which decreases along its indices. -/
theorem volumeTableEntries : Obligations.VolumeTableEntries := by
  refine ⟨by decide, fun v w h => ?_⟩
  rw [volEntry_eq_getElem, volEntry_eq_getElem]
  exact List.pairwise_iff_getElem.mp volTable_strictlyDecreasing _ _ _ _ h

end Sys2Proof.Machine
end

section
/-! PROOF. Panning and read (R130, R133): neither reads the latch, so in a usable state both complete, and what each does
is its own update of the state. -/

namespace Sys2Proof.Machine

theorem exec_setpan {s : State} (hu : s.usable = true) (p : Byte) :
    exec (.setpan p) s = .next { s with chip := { s.chip with panning := p }, reply := none } :=
  State.complete_of_usable hu _ _

theorem exec_read {s : State} (hu : s.usable = true) :
    exec .read s = .next { s with reply := some (.byte readSentinel) } :=
  State.complete_of_usable hu s.chip _

/-- Settles O25: `SETPAN` completes with the mask as the one element it updates. -/
theorem setpanReplacesMask : Obligations.SetpanReplacesMask :=
  fun _ p hu => exec_setpan hu p

/-- Settles O26: `READ` completes with the elements it found, and the sentinel is the constant 0xFF. -/
theorem readReturnsSentinel : Obligations.ReadReturnsSentinel :=
  fun _ hu => exec_read hu

end Sys2Proof.Machine
end

section
/-! PROOF. How events end (R140, R145, R152): the events that never fail, what `SAVE` hands back and what loading it
does, and that in usable states the elements alone decide what follows. -/

namespace Sys2Proof.Machine

/-- Settles O9: a step applies the head of the host's list, which in a usable state completes with its reply. -/
theorem chipEventsNeverFail : Obligations.ChipEventsNeverFail := by
  intro s e rest hu _ he _ hl
  obtain ⟨c, r, happly, hr⟩ := apply_usable (s := { s with events := rest }) hu hl
  exact ⟨_, (step_cons he).trans happly, hr, rfl, rfl, rfl⟩

/-! ### Saving, and loading what was saved -/

theorem exec_save {s : State} (hu : s.usable = true) :
    exec .save s = .next { s with reply := some (.image (Image.ofChip s.chip)) } :=
  State.complete_of_usable hu s.chip _

/-- Settles O50: `SAVE` completes with the elements it found, and the image lists them. -/
theorem saveReturnsEveryElement : Obligations.SaveReturnsEveryElement :=
  fun _ hu => ⟨_, exec_save hu, rfl⟩

/-- The elements as the values of an image (R145). -/
def ChipState.toValues (c : ChipState) : ImageValues where
  volume := c.volume.map fun v => (v.toNat : Int)
  toneReload := c.toneReload.map fun p => (p.toNat : Int)
  channelSelect := c.channelSelect.toNat
  volumeOrTone := c.volumeOrTone
  noiseMode := c.noiseMode
  noiseRate := c.noiseRate.toNat
  noiseShiftRegister := c.noiseShiftRegister.toNat
  clock := c.clock
  noiseClock := c.noiseClock
  phase := c.phase
  noiseBit := c.noiseBit
  panning := c.panning.toNat
  sampleClockDivider := c.sampleClockDivider
  currentSampleLeft := c.currentSampleLeft
  currentSampleRight := c.currentSampleRight

theorem Image.values?_ofChip_eq_toValues (c : ChipState) : (Image.ofChip c).values? = some c.toValues :=
  values?_ofChip c

theorem ImageValues.toChip_toValues (c : ChipState) : c.toValues.toChip = c := by
  simp [ChipState.toValues, toChip, PerChannel.map, PerTone.map]

@[simp] theorem PerChannel.get_map {α β : Type} (f : α → β) (x : PerChannel α) (k : Channel) :
    (x.map f).get k = f (x.get k) := by
  cases k <;> rfl

theorem between_natCast {n hi : Nat} (h : n ≤ hi) : between 0 hi n = true :=
  (between_iff _ _ _).mpr ⟨Int.natCast_nonneg n, Int.ofNat_le.mpr h⟩

/-- Elements inside the invariants meet the precondition of `LOAD` (R27, R148). -/
theorem ChipState.inRange_toValues {c : ChipState} (h : c.Inv) : c.toValues.inRange = true := by
  obtain ⟨i1, ⟨-, i2⟩, i3, i4, i5, i6, i7, i8⟩ := h
  have hvolume (k : Channel) : between 0 15 (c.volume.get k).toNat = true := between_natCast (i3 k)
  have htone (k : ToneChannel) : between 0 1023 (c.toneReload.get k).toNat = true := between_natCast (i4 k)
  have hselect : between 0 3 c.channelSelect.toNat = true := between_natCast i1
  have hrate : between 0 3 c.noiseRate.toNat = true := between_natCast (Nat.le_of_lt_succ c.noiseRate.isLt)
  have hshift : between 0 (2 ^ lfsrW - 1) c.noiseShiftRegister.toNat = true := between_natCast (Nat.le_of_lt_succ i2)
  have hpanning : between 0 255 c.panning.toNat = true := between_natCast (Nat.le_of_lt_succ c.panning.isLt)
  have hdivider : between 0 15 c.sampleClockDivider = true := between_natCast i7
  have hleft : between 0 (1020 * Config.mixScale) c.currentSampleLeft = true := between_natCast i8.1
  have hright : between 0 (1020 * Config.mixScale) c.currentSampleRight = true := between_natCast i8.2
  have hclock (k : ToneChannel) : between 1 1024 (c.clock.get k) = true := (between_iff _ _ _).mpr (i5 k)
  have hnoise : between 1 2048 c.noiseClock = true := (between_iff _ _ _).mpr i6
  simp [ImageValues.inRange, toValues, PerChannel.all_iff, PerTone.all_iff, hvolume, htone, hselect, hrate, hshift,
    hpanning, hdivider, hleft, hright, hclock, hnoise]

theorem ChipState.repair_eq_self {c : ChipState} (h : c.noiseShiftRegister ≠ 0) : c.repair = c := by
  rw [repair, guardNoise, guardZero_of_ne_zero h]

/-- Loading a saved image gives the elements back, into any block (R152). -/
theorem exec_load_ofChip {c : ChipState} (h : c.Inv) (t : State) :
    exec (.load (Image.ofChip c)) t = .next (t.install c) := by
  have hne : c.noiseShiftRegister ≠ 0 := by
    intro hz
    have hpos := h.i2.1
    simp [hz] at hpos
  calc execLoad (Image.ofChip c) t
    _ = .next (t.install c.toValues.toChip.repair) := by
      simp [execLoad, Image.values?_ofChip_eq_toValues, ChipState.inRange_toValues h]
    _ = .next (t.install c) := by rw [ImageValues.toChip_toValues, ChipState.repair_eq_self hne]

/-! ### In usable states the elements decide what follows -/

theorem execLoad_of_acceptable {img : Image} (h : img.acceptable = true) (s : State) :
    ∃ c, execLoad img s = .next (s.install c) := by
  rcases execLoad_cases img s with ⟨hv, -⟩ | ⟨v, -, -, hload⟩ | ⟨v, hv, hr, -⟩
  · simp [Image.acceptable, hv] at h
  · exact ⟨_, hload⟩
  · simp [Image.acceptable, hv, hr] at h

/-- In a usable state every event but a load of an image outside the precondition ends in a usable state. -/
theorem apply_keeps_usable {s : State} {e : HostEvent} (hu : s.usable = true)
    (hl : ∀ img, e = .load img → img.acceptable = true) : ∃ t, s.apply e = .next t ∧ t.usable = true := by
  by_cases hload : ∃ img, e = .load img
  · obtain ⟨img, rfl⟩ := hload
    obtain ⟨_, h⟩ := execLoad_of_acceptable (hl img rfl) s
    exact ⟨_, h, rfl⟩
  · obtain ⟨_, _, h, -⟩ := apply_usable hu (not_exists.mp hload)
    exact ⟨_, h, rfl⟩

/-- An event that completes with given elements and reply completes with them from every usable state. -/
theorem State.complete_transfer {s s' t : State} {c : ChipState} {r : Option HostReply} (ht : t.usable = true)
    (h : s.complete c r = .next s') : t.complete c r = .next { t with chip := s'.chip, reply := s'.reply } := by
  obtain ⟨-, rfl⟩ := (State.complete_eq_next_iff _ _ _ _).mp h
  exact State.complete_of_usable ht c r

/-- A meaning that ends in a usable state ends with the same elements and reply from every usable state with the
elements it began with: no meaning reads the rest of the state (R33). -/
theorem exec_transfer {i : Instr} {s s' t : State} (ht : t.usable = true) (hc : s.chip = t.chip)
    (h : exec i s = .next s') (hs' : s'.usable = true) :
    exec i t = .next { t with chip := s'.chip, reply := s'.reply } := by
  obtain ⟨c, u, n, r, es⟩ := s
  obtain rfl : c = t.chip := hc
  cases i with
  | reset =>
    cases h
    simp [exec, execReset, State.install, ht]
  | load img =>
    simp only [exec] at h ⊢
    rcases execLoad_cases img _ with ⟨-, hload⟩ | ⟨v, hv, hr, hload⟩ | ⟨v, -, -, hload⟩ <;> cases hload.symm.trans h
    · exact (nomatch hs')
    · simp [execLoad, hv, hr, State.install, ht]
  | dataVol d =>
    simp only [exec, execDataVol] at h
    split at h
    next hv => exact (exec_dataVol hv d).trans (State.complete_transfer ht h)
    next => exact (nomatch h)
  | dataTone d =>
    simp only [exec, execDataTone] at h
    split at h
    next hv hk => exact (exec_dataTone hv hk d).trans (State.complete_transfer ht h)
    next => exact (nomatch h)
  | dataNoise m r =>
    simp only [exec, execDataNoise] at h
    split at h
    next hq => exact (exec_dataNoise hq.1 hq.2 m r).trans (State.complete_transfer ht h)
    next => exact (nomatch h)
  | _ => exact State.complete_transfer ht h

/-- `exec_transfer` for an event: the latch that reads it is among the elements. -/
theorem apply_transfer {e : HostEvent} {s s' t : State} (ht : t.usable = true) (hc : s.chip = t.chip)
    (h : s.apply e = .next s') (hs' : s'.usable = true) :
    t.apply e = .next { t with chip := s'.chip, reply := s'.reply } := by
  rw [State.apply, State.decodeEvent, ← hc]
  exact exec_transfer ht hc h hs'

/-- Two usable states with the same elements end in the same elements after any events whose loads are acceptable. -/
theorem applyAll_chip_eq {s t : State} {es : List HostEvent} (hs : s.usable = true) (ht : t.usable = true)
    (hc : s.chip = t.chip) (hl : ∀ img, .load img ∈ es → img.acceptable = true) :
    ∃ s' t', s.applyAll es = .next s' ∧ t.applyAll es = .next t' ∧ s'.chip = t'.chip := by
  induction es generalizing s t with
  | nil => exact ⟨s, t, rfl, rfl, hc⟩
  | cons e es ih =>
    obtain ⟨u, hu, husable⟩ := apply_keeps_usable hs fun img he => hl img (he ▸ List.mem_cons_self)
    have htu := apply_transfer ht hc hu husable
    simp only [State.applyAll, hu, htu]
    exact ih husable ht rfl fun img himg => hl img (List.mem_cons_of_mem _ himg)

/-- Settles O56: the saved image loads as the saved elements, and from there the two blocks run alike. -/
theorem saveLoadRoundTrip : Obligations.SaveLoadRoundTrip := by
  intro s t hu hinv
  refine ⟨_, _, _, exec_save hu, rfl, rfl, exec_load_ofChip hinv t, rfl, rfl, fun es hl => ?_⟩
  obtain ⟨s₂, t₂, hs, ht, hchip⟩ := applyAll_chip_eq (s := { s with reply := some (.image (Image.ofChip s.chip)) })
    (t := t.install s.chip) hu rfl rfl hl
  exact ⟨s₂, t₂, hs, ht, hchip.symm, by rw [State.sampleOutput, State.sampleOutput, hchip]⟩

end Sys2Proof.Machine
end

section
/-! PROOF. The invariants I1 to I8 (R27, R28) and `LOAD` (R146 to R148): what the widths of the registers leave of the
invariants, that every meaning keeps them, and what an image must hold to be accepted. -/

namespace Sys2Proof.Machine

/-! ### The invariants that the widths do not give -/

/-- I1, I3 and I4 hold by the widths of their registers, and I2 only asks that the shift register is not 0 (R27). -/
theorem ChipState.inv_iff (c : ChipState) :
    c.Inv ↔ c.noiseShiftRegister ≠ 0 ∧ (∀ k, 1 ≤ c.clock.get k ∧ c.clock.get k ≤ 1024) ∧
      (1 ≤ c.noiseClock ∧ c.noiseClock ≤ 2048) ∧ c.sampleClockDivider ≤ 15 ∧
      c.currentSampleLeft ≤ 1020 * Config.mixScale ∧ c.currentSampleRight ≤ 1020 * Config.mixScale := by
  constructor
  · rintro ⟨-, ⟨hpos, -⟩, -, -, i5, i6, i7, i8⟩
    refine ⟨fun hz => ?_, i5, i6, i7, i8⟩
    simp [hz] at hpos
  · rintro ⟨hne, i5, i6, i7, i8⟩
    have hpos : c.noiseShiftRegister.toNat ≠ 0 := fun hz => hne (BitVec.eq_of_toNat_eq hz)
    exact ⟨Nat.le_of_lt_succ c.channelSelect.isLt, ⟨Nat.pos_of_ne_zero hpos, c.noiseShiftRegister.isLt⟩,
      fun k => Nat.le_of_lt_succ (c.volume.get k).isLt, fun k => Nat.le_of_lt_succ (c.toneReload.get k).isLt,
      i5, i6, i7, i8⟩

theorem ChipState.reset_inv : ChipState.reset.Inv := by
  refine (inv_iff _).mpr ⟨noiseSeed_ne_zero, fun k => ?_, ?_, ?_, Nat.zero_le _, Nat.zero_le _⟩
  · cases k <;> decide
  · decide
  · decide

/-- The invariants speak of the elements only the clock moves, and of the shift register's not being 0. -/
theorem ChipState.inv_of_clocked_eq {c d : ChipState} (hd : d.Inv) (h : c.clocked = d.clocked)
    (hr : c.noiseShiftRegister ≠ 0) : c.Inv := by
  obtain ⟨-, hclocks⟩ := (inv_iff d).mp hd
  obtain ⟨h1, h2, -, -, h5, h6, h7⟩ := Clocked.mk.inj h
  rw [← h1, ← h2, ← h5, ← h6, ← h7] at hclocks
  exact (inv_iff c).mpr ⟨hr, hclocks⟩

theorem ChipState.tick_inv {c : ChipState} (h : c.Inv) : c.tick.Inv := by
  obtain ⟨hr, i5, i6, i7, -⟩ := (inv_iff c).mp h
  refine (inv_iff _).mpr ⟨?_, fun k => ?_, ?_, ?_, mixSide_le _ .left, mixSide_le _ .right⟩
  · rw [tick_noiseShiftRegister]
    split
    · exact noiseShift_ne_zero _ (guardZero_ne_zero _)
    · exact hr
  · rw [tick_clock]
    have hk := i5 k
    split
    · exact toneReloadValue_range _
    · omega
  · rw [tick_noiseClock]
    have hreload := noiseReload_range c.noiseRate c.toneReload.c
    split <;> omega
  · rwa [tick_sampleClockDivider]

theorem ChipState.setDivider_inv {c : ChipState} (h : c.Inv) {d : Nat} (hd : d ≤ 15) : (c.setDivider d).Inv := by
  obtain ⟨hr, i5, i6, -, i8⟩ := (inv_iff c).mp h
  exact (inv_iff _).mpr ⟨hr, i5, i6, hd, i8⟩

theorem ChipState.pulse_inv {c : ChipState} (h : c.Inv) : c.pulse.Inv := by
  obtain ⟨-, hp⟩ | ⟨hne, hp⟩ := c.pulse_cases <;> rw [hp]
  · exact tick_inv (setDivider_inv h (Nat.zero_le _))
  · have := h.i7
    exact setDivider_inv h (by omega)

/-! ### Every step keeps the invariants -/

theorem State.complete_cases_of_clocked {s t : State} {c : ChipState} {r : Option HostReply} (h : s.complete c r = .next t)
    (hc : c.clocked = s.chip.clocked)
    (hn : c.noiseShiftRegister = s.chip.noiseShiftRegister ∨ c.noiseShiftRegister = noiseSeed) :
    s.usable = true ∧ t.chip.clocked = s.chip.clocked ∧
      (t.chip.noiseShiftRegister = s.chip.noiseShiftRegister ∨ t.chip.noiseShiftRegister = noiseSeed) := by
  obtain ⟨hu, rfl⟩ := (State.complete_eq_next_iff _ _ _ _).mp h
  exact ⟨hu, hc, hn⟩

/-- A meaning other than those of `ADVANCE`, `RESET` and `LOAD` completes in a usable state alone, moves nothing of what
the clock moves, and keeps the shift register or reseeds it. -/
theorem exec_cases_of_no_clock {i : Instr} {s t : State} (ha : i ≠ .advance) (hr : i ≠ .reset)
    (hl : ∀ img, i ≠ .load img) (h : exec i s = .next t) :
    s.usable = true ∧ t.chip.clocked = s.chip.clocked ∧
      (t.chip.noiseShiftRegister = s.chip.noiseShiftRegister ∨ t.chip.noiseShiftRegister = noiseSeed) := by
  cases i with
  | advance => exact absurd rfl ha
  | reset => exact absurd rfl hr
  | load img => exact absurd rfl (hl img)
  | latchNoise _ _ => exact State.complete_cases_of_clocked h rfl (.inr rfl)
  | dataNoise _ _ =>
    simp only [exec, execDataNoise] at h
    split at h
    · exact State.complete_cases_of_clocked h rfl (.inr rfl)
    · exact (nomatch h)
  | dataVol _ | dataTone _ =>
    simp only [exec, execDataVol, execDataTone] at h
    split at h
    · exact State.complete_cases_of_clocked h rfl (.inl rfl)
    · exact (nomatch h)
  | _ => exact State.complete_cases_of_clocked h rfl (.inl rfl)

/-! ### Images -/

/-- The precondition of `LOAD`, range by range (R148). -/
theorem ImageValues.inRange_iff (v : ImageValues) :
    v.inRange = true ↔
      (∀ k, 0 ≤ v.volume.get k ∧ v.volume.get k ≤ 15) ∧ (∀ k, 0 ≤ v.toneReload.get k ∧ v.toneReload.get k ≤ 1023) ∧
      (0 ≤ v.channelSelect ∧ v.channelSelect ≤ 3) ∧ (0 ≤ v.noiseRate ∧ v.noiseRate ≤ 3) ∧
      (0 ≤ v.noiseShiftRegister ∧ v.noiseShiftRegister < 2 ^ 15) ∧
      (∀ k, 1 ≤ v.clock.get k ∧ v.clock.get k ≤ 1024) ∧ (1 ≤ v.noiseClock ∧ v.noiseClock ≤ 2048) ∧
      (0 ≤ v.panning ∧ v.panning ≤ 255) ∧ (0 ≤ v.sampleClockDivider ∧ v.sampleClockDivider ≤ 15) ∧
      (0 ≤ v.currentSampleLeft ∧ v.currentSampleLeft ≤ 1020 * Config.mixScale) ∧
      (0 ≤ v.currentSampleRight ∧ v.currentSampleRight ≤ 1020 * Config.mixScale) := by
  simp only [inRange, Bool.and_eq_true, PerChannel.all_iff, PerTone.all_iff, between_iff, and_assoc,
    Int.le_sub_one_iff]

theorem exec_load_of_inRange {img : Image} {v : ImageValues} (hv : img.values? = some v) (hr : v.inRange = true)
    (s : State) : exec (.load img) s = .next (s.install v.toChip.repair) := by
  simp [exec, execLoad, hv, hr]

/-- An accepted image gives elements inside the invariants, its shift register repaired (R147, R148). -/
theorem ImageValues.repair_toChip_inv {v : ImageValues} (h : v.inRange = true) : v.toChip.repair.Inv := by
  obtain ⟨-, -, -, -, -, hclock, hnoise, -, hdivider, hleft, hright⟩ := v.inRange_iff.mp h
  exact (ChipState.inv_iff _).mpr ⟨guardZero_ne_zero _, hclock, hnoise, Int.toNat_le.mpr hdivider.2,
    Int.toNat_le.mpr hleft.2, Int.toNat_le.mpr hright.2⟩

/-- Every meaning keeps the invariants (R28). -/
theorem exec_keeps_inv {i : Instr} {s t : State} (hs : s.Inv) (h : exec i s = .next t) : t.Inv := by
  by_cases ha : i = .advance
  · subst ha
    obtain ⟨hu, rfl⟩ := (State.complete_eq_next_iff _ _ _ _).mp h
    exact fun _ => ChipState.pulse_inv (hs hu)
  by_cases hr : i = .reset
  · subst hr
    cases h
    exact fun _ => ChipState.reset_inv
  by_cases hl : ∃ img, i = .load img
  · obtain ⟨img, rfl⟩ := hl
    rcases execLoad_cases img s with ⟨-, hload⟩ | ⟨v, -, hv, hload⟩ | ⟨v, -, -, hload⟩ <;> cases hload.symm.trans h
    · exact fun hu => (nomatch hu)
    · exact fun _ => ImageValues.repair_toChip_inv hv
  obtain ⟨hu, hclocked, hshift⟩ := exec_cases_of_no_clock ha hr (not_exists.mp hl) h
  obtain ⟨hne, -⟩ := (ChipState.inv_iff _).mp (hs hu)
  refine fun _ => ChipState.inv_of_clocked_eq (hs hu) hclocked ?_
  rcases hshift with hkept | hseed
  · rwa [hkept]
  · rw [hseed]
    exact noiseSeed_ne_zero

/-- Settles O58: a step applies one meaning, or with no event does nothing. -/
theorem stepKeepsInvariants : Obligations.StepKeepsInvariants := by
  intro s t hs h
  cases he : s.events with
  | nil =>
    cases (step_nil he).symm.trans h
    exact hs
  | cons e rest => exact exec_keeps_inv (s := { s with events := rest }) hs ((step_cons he).symm.trans h)

/-- Settles O57: the reset record is inside the invariants. -/
theorem resetSatisfiesInvariants : Obligations.ResetSatisfiesInvariants := ⟨rfl, ChipState.reset_inv⟩

/-- Settles O48: `RESET` installs the record whatever the state was, and the record's values are the spec's. -/
theorem resetInstallsRecord : Obligations.ResetInstallsRecord := fun _ => ⟨rfl, rfl⟩

/-! ### What a load does -/

theorem ImageValues.noiseShiftRegister_repair {v : ImageValues} (h0 : 0 ≤ v.noiseShiftRegister)
    (h1 : v.noiseShiftRegister < 2 ^ 15) :
    (v.noiseShiftRegister ≠ 0 → (v.toChip.repair.noiseShiftRegister.toNat : Int) = v.noiseShiftRegister) ∧
    (v.noiseShiftRegister = 0 → v.toChip.repair.noiseShiftRegister = noiseSeed) := by
  have hfits := toNat_ofInt_of_fits 15 _ h0 h1
  constructor
  · intro hne
    have hkept : BitVec.ofInt lfsrW v.noiseShiftRegister ≠ 0 := fun hz => hne (by rw [← hfits, hz]; rfl)
    calc ((guardZero (BitVec.ofInt lfsrW v.noiseShiftRegister)).toNat : Int)
      _ = (BitVec.ofInt lfsrW v.noiseShiftRegister).toNat := by rw [guardZero_of_ne_zero hkept]
      _ = v.noiseShiftRegister := hfits
  · intro hz
    calc guardZero (BitVec.ofInt lfsrW v.noiseShiftRegister)
      _ = guardZero 0 := by rw [hz]; rfl
      _ = noiseSeed := if_pos rfl

/-- Settles O51: each value in range fits its register, and the repair touches the shift register alone. -/
theorem loadOverwritesEveryElement : Obligations.LoadOverwritesEveryElement := by
  intro s img v hv hr
  obtain ⟨hvolume, htone, hselect, hrate, hshift, -, -, hpanning, hdivider, hleft, hright⟩ := v.inRange_iff.mp hr
  obtain ⟨hkept, hseeded⟩ := ImageValues.noiseShiftRegister_repair hshift.1 hshift.2
  have hfits (w : Nat) {x hi : Int} (h : 0 ≤ x ∧ x ≤ hi) (hw : hi < 2 ^ w) : ((BitVec.ofInt w x).toNat : Int) = x :=
    toNat_ofInt_of_fits w x h.1 (lt_of_le_of_lt h.2 hw)
  refine ⟨_, exec_load_of_inRange hv hr s, rfl, rfl, rfl, rfl, fun k => ?_, fun k => ?_, hfits 2 hselect (by decide),
    rfl, rfl, hfits 2 hrate (by decide), hkept, hseeded, rfl, rfl, rfl, rfl, hfits 8 hpanning (by decide),
    Int.toNat_of_nonneg hdivider.1, Int.toNat_of_nonneg hleft.1, Int.toNat_of_nonneg hright.1⟩
  · calc (((v.volume.map (BitVec.ofInt 4)).get k).toNat : Int)
      _ = (BitVec.ofInt 4 (v.volume.get k)).toNat := by rw [PerChannel.get_map]
      _ = v.volume.get k := hfits 4 (hvolume k) (by decide)
  · calc (((v.toneReload.map (BitVec.ofInt 10)).get k).toNat : Int)
      _ = (BitVec.ofInt 10 (v.toneReload.get k)).toNat := by rw [PerTone.get_map]
      _ = v.toneReload.get k := hfits 10 (htone k) (by decide)

/-- Settles O52: an image with values holds each of them, in arrays of their lengths and balanced sections, so a
malformed one has none. -/
theorem malformedLoadRaises : Obligations.MalformedLoadRaises := by
  intro s img hbad
  rcases execLoad_cases img s with ⟨-, h⟩ | ⟨v, hv, -⟩ | ⟨v, hv, -⟩
  · exact ⟨_, h, rfl, rfl, rfl⟩
  all_goals
    rw [Image.values?_eq_some hv] at hbad
    simp [PerChannel.toList, PerTone.toList] at hbad

/-- Settles O53: no event but `RESET` and `LOAD` has a meaning in the unusable state. -/
theorem unusableStateRefuses : Obligations.UnusableStateRefuses := fun _ _ hu hr hl => apply_unusable hu hr hl

/-- Settles O54: an image out of range is refused. -/
theorem imageOutsideInvariantsRefused : Obligations.ImageOutsideInvariantsRefused := by
  intro s img v hv hout
  have hr : v.inRange = false := Bool.eq_false_iff.mpr fun h => hout (v.inRange_iff.mp h)
  simp [exec, execLoad, hv, hr]

/-- Settles O55: an image in range is accepted, and its elements are inside the invariants. -/
theorem imageInsideInvariantsAccepted : Obligations.ImageInsideInvariantsAccepted := by
  intro s img v hv h1 h2 h3 h4 h5 h6 h7 h8 h9 h10 h11
  have hr : v.inRange = true := v.inRange_iff.mpr ⟨h1, h2, h3, h4, h5, h6, h7, h8, h9, h10, h11⟩
  exact ⟨_, exec_load_of_inRange hv hr s, rfl, ImageValues.repair_toChip_inv hr⟩

end Sys2Proof.Machine
end

section
/-! PROOF. The decoder and the encoder (R60 to R70): the fields of the bytes the encoder makes, that each instruction's
byte decodes to it, and that only the bits a field reads survive the way back. -/

namespace Sys2Proof

open Machine

theorem isLatch_nibbleData (d : BitVec 4) : isLatch ((0 : BitVec 4) ++ d) = false := by
  revert d; decide

theorem decode_latchByte (q : BitVec 2) (v : Bool) (k : Channel) (t : Bool) (d : BitVec 4) :
    decode q v (.write (latchByte k.index t d)) = latchCommand k t d := by
  rw [decode, decodeWrite_latch q v (isLatch_latchByte _ _ _), decodeLatch_eq_latchCommand, fieldCc_latchByte,
    fieldT_latchByte, fieldD_latchByte, Channel.ofSelect_index]

theorem noiseNibble_fields (m : Bool) (r : BitVec 2) :
    (noiseNibble m r).getLsbD 2 = m ∧ (noiseNibble m r).extractLsb' 0 2 = r := by
  revert m r; decide

/-- The noise latch's nibble gives back the mode and the rate it is made of (R67). -/
theorem latchCommand_noiseNibble (m : Bool) (r : BitVec 2) :
    latchCommand .noise false (noiseNibble m r) = .latchNoise m r := by
  obtain ⟨hm, hr⟩ := noiseNibble_fields m r
  rw [latchCommand, hm, hr]

/-- Settles O1: a latch command's byte carries its channel, mode and nibble; a data command's byte is read by the latch
that selects it; every other event is its instruction. -/
theorem decodeEncodeRoundTrip : Obligations.DecodeEncodeRoundTrip := by
  intro i q v hs
  cases i with
  | latchToneA d => exact decode_latchByte q v .a false d
  | latchVolA d => exact decode_latchByte q v .a true d
  | latchToneB d => exact decode_latchByte q v .b false d
  | latchVolB d => exact decode_latchByte q v .b true d
  | latchToneC d => exact decode_latchByte q v .c false d
  | latchVolC d => exact decode_latchByte q v .c true d
  | latchNoise m r => exact (decode_latchByte q v .noise false _).trans (latchCommand_noiseNibble m r)
  | latchVolN d => exact decode_latchByte q v .noise true d
  | dataVol d =>
    have hv : v = true := hs
    rw [encode, decode, decodeWrite_data q v (isLatch_nibbleData d), decodeData, if_pos hv, fieldD_append]
  | dataTone h =>
    obtain ⟨hv, hq⟩ : v = false ∧ q ≠ 3 := by simpa [Instr.selectedBy] using hs
    rw [encode, decode, decodeWrite_data q v (isLatch_toneData h), decodeData, hv, if_neg Bool.false_ne_true, if_neg hq,
      fieldH_append]
  | dataNoise m r =>
    obtain ⟨hv, hq⟩ : v = false ∧ q = 3 := by simpa [Instr.selectedBy] using hs
    rw [encode, decode, decodeWrite_data q v (isLatch_nibbleData _), decodeData, hv, if_neg Bool.false_ne_true,
      if_pos hq, fieldM_noise, fieldR_noise]
  | setpan _ | read | advance | reset | save | load _ => rfl

/-! ### The bits no field reads -/

/-- A latch byte comes back whole, but for bit 3 of a noise latch (R67, R70). -/
theorem encode_decodeLatch (b : Byte) (h : isLatch b = true) :
    encode (decodeLatch b) = .write (b &&& if b.extractLsb' 4 3 = 6 then 0xF7 else 0xFF) := by
  revert b; decide

/-- Of a volume data byte the nibble comes back (R70, R92). -/
theorem encode_dataVol_fieldD (b : Byte) (h : isLatch b = false) :
    encode (.dataVol (fieldD b)) = .write (b &&& 0x8F) := by
  revert b; decide

/-- Of a noise data byte the mode and the rate come back (R70, R94). -/
theorem encode_dataNoise_fields (b : Byte) (h : isLatch b = false) :
    encode (.dataNoise (fieldM b) (fieldR b)) = .write (b &&& 0x87) := by
  revert b; decide

/-- Of a tone data byte the low six bits come back (R70, R93). -/
theorem encode_dataTone_fieldH (b : Byte) (h : isLatch b = false) :
    encode (.dataTone (fieldH b)) = .write (b &&& 0xBF) := by
  revert b; decide

/-- Settles O2: a latch byte or one of the three data bytes, each with its own unused bits. -/
theorem encodeDecodeClearsIgnoredBits : Obligations.EncodeDecodeClearsIgnoredBits := by
  intro q v b
  cases hb : b.getLsbD 7 with
  | true => rw [decode, decodeWrite_latch q v hb, encode_decodeLatch b hb, if_pos rfl]
  | false =>
    rw [decode, decodeWrite_data q v hb, decodeData, if_neg Bool.false_ne_true]
    split_ifs
    · exact encode_dataVol_fieldD b hb
    · exact encode_dataNoise_fields b hb
    · exact encode_dataTone_fieldH b hb

/-- Settles O3: the byte with its ignored bits cleared is the encoding of what the byte decodes to, so it decodes to the
same instruction. -/
theorem ignoredBitsHaveNoEffect : Obligations.IgnoredBitsHaveNoEffect := by
  intro s b hu
  obtain ⟨_, _, h, -⟩ := apply_usable (e := .write b) hu (fun _ h => (nomatch h))
  refine ⟨_, h, Eq.trans ?_ h⟩
  have hclear := encodeDecodeClearsIgnoredBits s.chip.channelSelect s.chip.volumeOrTone b
  have hround := decodeEncodeRoundTrip _ _ _ (decode_selected s.chip.channelSelect s.chip.volumeOrTone (.write b))
  rw [hclear] at hround
  simp only [State.apply, State.decodeEvent, hround]

/-! ### The opcode map -/

theorem highNibble_append (x d : BitVec 4) : (x ++ d : Byte).extractLsb' 4 4 = x := by
  revert x d; decide

/-- A byte given by its nibbles, the high one `1cct`, is the latch command of `cc` and `t` (R61, R68). -/
theorem decode_nibbles (q : BitVec 2) (v : Bool) (k : Channel) (t : Bool) {x : BitVec 4}
    (h : x = (1 : BitVec 1) ++ k.index ++ BitVec.ofBool t) (d : BitVec 4) :
    decode q v (.write (x ++ d)) = latchCommand k t d := by
  rw [decode_of_highNibble q v k t ((highNibble_append x d).trans h), ← fieldD, fieldD_append]

/-- Settles O4: the eight high nibbles of latch bytes, and a data byte under each kind of latch. -/
theorem opcodeMapRows : Obligations.OpcodeMapRows := by
  intro q v d b
  refine ⟨decode_nibbles q v .a false rfl d, decode_nibbles q v .a true rfl d, decode_nibbles q v .b false rfl d,
    decode_nibbles q v .b true rfl d, decode_nibbles q v .c false rfl d, decode_nibbles q v .c true rfl d,
    decode_nibbles q v .noise false rfl d, decode_nibbles q v .noise true rfl d, fun hb => ?_⟩
  rw [decode, decodeWrite_data q v hb, decodeData]
  refine ⟨fun hv => if_pos hv, fun hv hq => ?_, fun hv hq => ?_⟩ <;> rw [hv, if_neg Bool.false_ne_true]
  · exact if_neg hq
  · exact if_pos hq

/-- Settles O5: each of the seven words is decoded. -/
theorem writtenWordsDecode : Obligations.WrittenWordsDecode := by
  unfold Obligations.WrittenWordsDecode
  decide

end Sys2Proof
end

section
/-! PROOF. Steps, runs and the port map (R44, R50, R151): a step is the next event's meaning, a run of steps the events
in order, and what a step can be refused for. -/

namespace Sys2Proof.Machine

/-- Settles O7: a step with an event, and a step with none. -/
theorem stepRunsNextEvent : Obligations.StepRunsNextEvent := ⟨fun _ _ _ => step_cons, fun _ => step_nil⟩

theorem run_succ_of_next {s t : State} (h : step s = .next t) (k : Nat) : core.run (k + 1) s = core.run k t := by
  have hstep : core.step s = .next t := h
  simp only [Host.Core.run, hstep]

theorem run_succ_of_refused {s : State} {r : Refusal} (h : step s = .refused r) (k : Nat) :
    core.run (k + 1) s = .refused r := by
  have hstep : core.step s = .refused r := h
  simp only [Host.Core.run, hstep]

/-- Settles O8, by induction on the events in front: no meaning reads the host's list, so each event acts as it does when
it is applied alone. -/
theorem runAppliesEvents : Obligations.RunAppliesEvents := by
  intro es rest
  induction es with
  | nil =>
    rintro s rfl
    rfl
  | cons e es ih =>
    intro s hs
    have hstep := step_cons (rest := es ++ rest) hs
    obtain ⟨hnext, hrefused⟩ := exec_events (s.decodeEvent e) { s with events := rest } (es ++ rest)
    rw [State.applyAll]
    cases happly : ({ s with events := rest } : State).apply e with
    | next t =>
      have hevents : t.events = rest := exec_keeps_events happly
      have hrest : ({ t with events := rest } : State) = t := by rw [← hevents]
      have hrun := ih { t with events := es ++ rest } rfl
      rw [hrest] at hrun
      exact (run_succ_of_next (hstep.trans (hnext t happly)) _).trans hrun
    | refused r => exact run_succ_of_refused (hstep.trans (hrefused r happly)) _
    | fault f => exact (nomatch f)

/-- What an event can be refused for. -/
theorem apply_refused_cases {s : State} {e : HostEvent} {r : Refusal} (h : s.apply e = .refused r) :
    (r = .unusableState ∧ s.usable = false) ∨
    (r = .imageOutsideInvariants ∧ ∃ img v, e = .load img ∧ img.values? = some v ∧ v.inRange = false) := by
  by_cases hl : ∃ img, e = .load img
  · obtain ⟨img, rfl⟩ := hl
    rcases execLoad_cases img s with ⟨-, hload⟩ | ⟨v, -, -, hload⟩ | ⟨v, hv, hr, hload⟩ <;> cases hload.symm.trans h
    exact .inr ⟨rfl, img, v, rfl, hv, hr⟩
  · have hload := not_exists.mp hl
    cases hu : s.usable with
    | true =>
      obtain ⟨_, _, happly, -⟩ := apply_usable hu hload
      exact (nomatch happly.symm.trans h)
    | false =>
      by_cases hreset : e = .reset
      · subst hreset
        exact (nomatch h)
      · cases (apply_unusable hu hreset hload).symm.trans h
        exact .inl ⟨rfl, rfl⟩

/-- Settles O10: a step is refused where its event is. -/
theorem stepRefusesOnly : Obligations.StepRefusesOnly := by
  intro s r h
  cases he : s.events with
  | nil => exact (nomatch (step_nil he).symm.trans h)
  | cons e rest =>
    have happly : ({ s with events := rest } : State).apply e = .refused r := (step_cons he).symm.trans h
    rcases apply_refused_cases happly with hu | ⟨hr, img, v, rfl, hv, hout⟩
    · exact .inl hu
    · exact .inr ⟨hr, img, rest, v, rfl, hv, hout⟩

/-- Settles O59: the ports are compared in order, and the panning port is not the write port. -/
theorem portMapSelectsEvents : Obligations.PortMapSelectsEvents := by
  intro pm addr b hpm
  exact ⟨if_pos rfl, PortMap_resolve_panPort hpm b, if_pos rfl, fun hw hp => (if_neg hw).trans (if_neg hp),
    fun hr => if_neg hr⟩

end Sys2Proof.Machine
end

section
/-! PROOF. Register writes (R45, R49, R73, R91 to R97): what one data command does, what the named commands do, that a
repeated write is idle, what a write reaches, and that the programmed registers follow from the bytes alone. -/

namespace Sys2Proof.Machine

/-! ### The data commands, register by register -/

theorem PerChannel.set_ofSelect {α : Type} (x : PerChannel α) (q : BitVec 2) (v : α) :
    x.set (Channel.ofSelect q) v =
      ⟨if q = 0 then v else x.a, if q = 1 then v else x.b, if q = 2 then v else x.c, if q = 3 then v else x.noise⟩ := by
  have hq : q = 0 ∨ q = 1 ∨ q = 2 ∨ q = 3 := by revert q; decide
  rcases hq with rfl | rfl | rfl | rfl <;> rfl

/-- Settles O16: the selector is the index of the channel whose volume is set. -/
theorem dataVolumeCommand : Obligations.DataVolumeCommand := by
  intro s d hu hv
  rw [exec_dataVol hv, State.complete_of_usable hu, ← PerChannel.set_ofSelect]
  rfl

/-- Settles O17: a selector other than 3 is the index of the tone channel whose period is written. -/
theorem dataToneCommand : Obligations.DataToneCommand := by
  intro s h hu hv hq
  obtain ⟨k, hk⟩ := Option.ne_none_iff_exists'.mp fun h => hq ((ToneChannel.ofSelect?_eq_none_iff _).mp h)
  obtain ⟨hindex, -⟩ := ToneChannel.ofSelect?_eq_some hk
  rw [exec_dataTone hv hk, State.complete_of_usable hu, hindex]
  cases k <;> rfl

/-- Settles O18: each data command tests the latch first. -/
theorem dataCommandsNeedTheirLatch : Obligations.DataCommandsNeedTheirLatch := by
  intro s d h m r
  refine ⟨fun hv => ?_, fun hlatch => ?_, fun hlatch => if_neg fun hq => ?_⟩
  · simp [exec, execDataVol, hv]
  · rcases hlatch with hv | hq
    · simp [exec, execDataTone, hv]
    · simp [exec, execDataTone, (ToneChannel.ofSelect?_eq_none_iff _).mpr hq]
  · simp [hq.1, hq.2] at hlatch

/-! ### The named commands -/

theorem apply_latchByte_of_fields (s : State) (k : Channel) (t : Bool) (d : BitVec 4) :
    s.apply (.write (latchByte k.index t d)) = exec (latchCommand k t d) s := by
  rw [State.apply, State.decodeEvent, decode_latchByte]

/-- `SETVOL` completes and writes one volume (R73, R84 to R87). -/
theorem apply_setVol {s : State} (hu : s.usable = true) (k : Channel) (d : VolIndex) :
    s.apply (.write (latchByte k.index true d)) =
      .next { s with chip := (s.chip.latch k.index true).writeVolume k d, reply := none } := by
  rw [apply_latchByte_of_fields, exec_latchCommand_volume, State.complete_of_usable hu]

/-- `SETNOISE` completes and is a noise-control write (R73, R83). -/
theorem apply_setNoise {s : State} (hu : s.usable = true) (m : Bool) (r : BitVec 2) :
    s.apply (.write (latchByte 3 false (noiseNibble m r))) =
      .next { s with chip := (s.chip.latch 3 false).noiseControl m r, reply := none } := by
  rw [← Channel.index, apply_latchByte_of_fields, latchCommand_noiseNibble]
  exact State.complete_of_usable hu _ _

theorem State.applyAll_cons {s t : State} {e : HostEvent} (h : s.apply e = .next t) (es : List HostEvent) :
    s.applyAll (e :: es) = t.applyAll es := by
  simp only [State.applyAll, h]

/-- One `SETVOL` for each of a list of channels. -/
theorem applyAll_setVols {s : State} (hu : s.usable = true) (d : VolIndex) (ks : List Channel) :
    ∃ t, s.applyAll (ks.flatMap (setVol · d)) = .next t ∧
      t.chip.volume = ks.foldl (fun x k => x.set k d) s.chip.volume := by
  induction ks generalizing s with
  | nil => exact ⟨s, rfl, rfl⟩
  | cons k ks ih =>
    obtain ⟨t, ht, hvolume⟩ := ih (s := { s with chip := (s.chip.latch k.index true).writeVolume k d, reply := none }) hu
    exact ⟨t, (State.applyAll_cons (apply_setVol hu k d) _).trans ht, hvolume⟩

/-- Settles O21: `SETVOL` and `SETNOISE` are one latch byte each, `SILENCE` is four. -/
theorem namedCommandsEffect : Obligations.NamedCommandsEffect := by
  intro s k d m r hu
  exact ⟨⟨_, State.applyAll_cons (apply_setVol hu k d) [], rfl, rfl, rfl⟩,
    applyAll_setVols hu 15 [.a, .b, .c, .noise],
    ⟨_, State.applyAll_cons (apply_setNoise hu m r) [], rfl, rfl, rfl⟩⟩

/-- The two halves of a period do not overlap, so their order does not matter (R45). -/
theorem ChipState.writeToneLow_writeToneHigh_comm (c : ChipState) (k : ToneChannel) (lo : BitVec 4) (hi : BitVec 6) :
    (c.writeToneHigh k hi).writeToneLow k lo = (c.writeToneLow k lo).writeToneHigh k hi := by
  have hset (x y z : Period) (p : PerTone Period) : (p.set k x).set k z = (p.set k y).set k z := by cases k <;> rfl
  simp only [writeToneLow, writeToneHigh, PerTone.get_set_same, Period.withHigh_withLow, Period.withLow_withHigh]
  rw [hset]

/-- Settles O20: with the channel already latched, the data byte first or last writes the same half. -/
theorem tonePeriodEitherOrder : Obligations.TonePeriodEitherOrder := by
  intro s k n hu hq hv
  have hlatched : s.chip.latch k.index false = s.chip := by rw [ChipState.latch, ← hq, ← hv]
  have hdata := (apply_toneData hq hv (n.extractLsb' 4 6)).trans (State.complete_of_usable hu _ _)
  have hlatch := (apply_toneLatch
    { s with chip := s.chip.writeToneHigh k (n.extractLsb' 4 6), reply := none } k (n.extractLsb' 0 4)).trans
    (State.complete_of_usable hu _ _)
  refine ⟨_, _, applyAll_toneBytes hu k _ _, State.applyAll_pair hdata hlatch, ?_, ?_⟩
  · have hlatched' : (s.chip.writeToneHigh k (n.extractLsb' 4 6)).latch k.index false =
        (s.chip.latch k.index false).writeToneHigh k (n.extractLsb' 4 6) := rfl
    simp only [hlatched', ChipState.writeToneLow_writeToneHigh_comm]
  · rw [ChipState.get_toneReload_writeToneLow_writeToneHigh, Period_halves]

/-! ### A write as one function of the elements -/

/-- The latch as a write leaves it: a latch byte sets it, a data byte keeps it (R88, R91). -/
def ChipState.latchedBy (c : ChipState) (b : Byte) : ChipState :=
  if isLatch b then c.latch (fieldCc b) (fieldT b) else c

/-- The half of a period a byte writes: a latch byte the low nibble, a data byte the high six bits (R65). -/
def ChipState.writePeriod (c : ChipState) (k : ToneChannel) (b : Byte) : ChipState :=
  if isLatch b then c.writeToneLow k (fieldD b) else c.writeToneHigh k (fieldH b)

/-- A byte goes to the register its latch selects (R88, R91). -/
def ChipState.writeSelected (c : ChipState) (b : Byte) : ChipState :=
  if c.volumeOrTone then c.writeVolume (Channel.ofSelect c.channelSelect) (fieldD b)
  else
    match ToneChannel.ofSelect? c.channelSelect with
    | some k => c.writePeriod k b
    | none => c.noiseControl (fieldM b) (fieldR b)

/-- The elements after a byte at the write port. -/
def ChipState.written (c : ChipState) (b : Byte) : ChipState := (c.latchedBy b).writeSelected b

theorem apply_write {s : State} (hu : s.usable = true) (b : Byte) :
    s.apply (.write b) = .next { s with chip := s.chip.written b, reply := none } := by
  cases hb : isLatch b with
  | true =>
    have hlatched : s.chip.latchedBy b = s.chip.latch (fieldCc b) (fieldT b) := if_pos hb
    rw [latchWriteEffect s b hu hb, ChipState.written, hlatched]
    cases ht : fieldT b with
    | true => rw [if_pos (show b.getLsbD 4 = true from ht)]; rfl
    | false =>
      rw [fieldT] at ht
      rw [ht, ChipState.writeSelected]
      simp only [ChipState.writePeriod, hb]
      rfl
  | false =>
    have hlatched : s.chip.latchedBy b = s.chip := by rw [ChipState.latchedBy, hb]; rfl
    rw [dataWriteEffect s b hu hb, ChipState.written, hlatched, ChipState.writeSelected]
    simp only [ChipState.writePeriod, hb]
    rfl

theorem usable_of_apply_write {s t : State} {b : Byte} (h : s.apply (.write b) = .next t) : s.usable = true := by
  cases hu : s.usable with
  | true => rfl
  | false =>
    have hrefused := apply_unusable (e := .write b) hu (fun h => (nomatch h)) (fun _ h => (nomatch h))
    exact (nomatch hrefused.symm.trans h)

/-- A completed write is `written`, with no reply. -/
theorem eq_written_of_apply_write {s t : State} {b : Byte} (h : s.apply (.write b) = .next t) :
    s.usable = true ∧ t = { s with chip := s.chip.written b, reply := none } := by
  have hu := usable_of_apply_write h
  exact ⟨hu, Host.Outcome.next.inj (h.symm.trans (apply_write hu b))⟩

/-- The three registers a byte can go to, by the latch it leaves. -/
theorem ChipState.written_cases (c : ChipState) (b : Byte) :
    ((c.latchedBy b).volumeOrTone = true ∧
      c.written b = (c.latchedBy b).writeVolume (Channel.ofSelect (c.latchedBy b).channelSelect) (fieldD b)) ∨
    ((c.latchedBy b).volumeOrTone = false ∧ ∃ k, ToneChannel.ofSelect? (c.latchedBy b).channelSelect = some k ∧
      c.written b = (c.latchedBy b).writePeriod k b) ∨
    ((c.latchedBy b).volumeOrTone = false ∧ (c.latchedBy b).channelSelect = 3 ∧
      c.written b = (c.latchedBy b).noiseControl (fieldM b) (fieldR b)) := by
  rw [written, writeSelected]
  cases hv : (c.latchedBy b).volumeOrTone with
  | true => exact .inl ⟨rfl, rfl⟩
  | false =>
    cases hk : ToneChannel.ofSelect? (c.latchedBy b).channelSelect with
    | some k => exact .inr (.inl ⟨rfl, k, rfl, rfl⟩)
    | none => exact .inr (.inr ⟨rfl, (ToneChannel.ofSelect?_eq_none_iff _).mp hk, rfl⟩)

/-- A period's write touches the period alone. -/
theorem ChipState.writePeriod_eq (c : ChipState) (k : ToneChannel) (b : Byte) :
    ∃ p, c.writePeriod k b = { c with toneReload := c.toneReload.set k p } := by
  unfold writePeriod
  split
  · exact ⟨_, rfl⟩
  · exact ⟨_, rfl⟩

/-! ### What a write reaches -/

theorem ChipState.latchedBy_frame (c : ChipState) (b : Byte) :
    (c.latchedBy b).panning = c.panning ∧ (c.latchedBy b).noiseShiftRegister = c.noiseShiftRegister ∧
      (c.latchedBy b).noiseMode = c.noiseMode ∧ (c.latchedBy b).noiseRate = c.noiseRate := by
  unfold latchedBy
  split <;> exact ⟨rfl, rfl, rfl, rfl⟩

theorem ChipState.written_panning (c : ChipState) (b : Byte) : (c.written b).panning = c.panning := by
  obtain ⟨hp, -⟩ := c.latchedBy_frame b
  rcases c.written_cases b with ⟨-, h⟩ | ⟨-, k, -, h⟩ | ⟨-, -, h⟩ <;> rw [h]
  · exact hp
  · obtain ⟨p, h⟩ := (c.latchedBy b).writePeriod_eq k b
    rw [h]
    exact hp
  · exact hp

/-- The write of a byte that leaves any latch but (3, tone) keeps the noise registers; one that leaves it reseeds
(R95; 90_conflicts.md C5). -/
theorem ChipState.written_noise (c : ChipState) (b : Byte) :
    ((c.written b).channelSelect ≠ 3 ∨ (c.written b).volumeOrTone = true →
      (c.written b).noiseShiftRegister = c.noiseShiftRegister ∧ (c.written b).noiseMode = c.noiseMode ∧
      (c.written b).noiseRate = c.noiseRate) ∧
    ((c.written b).channelSelect = 3 ∧ (c.written b).volumeOrTone = false →
      (c.written b).noiseShiftRegister = noiseSeed) := by
  obtain ⟨-, hkept⟩ := c.latchedBy_frame b
  rcases c.written_cases b with ⟨hv, h⟩ | ⟨-, k, hk, h⟩ | ⟨hv, hq, h⟩
  · rw [h]
    exact ⟨fun _ => hkept, fun ⟨_, htone⟩ => absurd (hv.symm.trans htone) (by decide)⟩
  · obtain ⟨p, hp⟩ := (c.latchedBy b).writePeriod_eq k b
    have hq : (c.latchedBy b).channelSelect ≠ 3 := fun hq => by
      rw [(ToneChannel.ofSelect?_eq_none_iff _).mpr hq] at hk
      exact (nomatch hk)
    rw [h, hp]
    exact ⟨fun _ => hkept, fun ⟨hnoise, _⟩ => absurd hnoise hq⟩
  · rw [h]
    refine ⟨fun hother => ?_, fun _ => rfl⟩
    rcases hother with hother | hvolume
    · exact absurd hq hother
    · exact absurd (hv.symm.trans hvolume) (by decide)

/-- Settles O22: only the clock moves the hidden elements, and the byte goes to the one register its latch selects. -/
theorem writeReaches : Obligations.WriteReaches := by
  intro s t b h
  obtain ⟨hclock, hnoiseClock, hphase, hnoiseBit, hdivider, hleft, hright⟩ := Clocked.mk.inj <|
    apply_keeps_clocked (e := .write b) (fun h => (nomatch h)) (fun h => (nomatch h)) (fun _ h => (nomatch h)) h
  obtain ⟨-, rfl⟩ := eq_written_of_apply_write h
  exact ⟨hclock, hnoiseClock, hphase, hnoiseBit, s.chip.written_panning b, hdivider, hleft, hright,
    s.chip.written_noise b⟩

/-! ### Repeating an event -/

theorem PerTone.set_set {α : Type} (x : PerTone α) (k : ToneChannel) (v w : α) : (x.set k v).set k w = x.set k w := by
  cases k <;> rfl

theorem PerChannel.set_set {α : Type} (x : PerChannel α) (k : Channel) (v w : α) :
    (x.set k v).set k w = x.set k w := by
  cases k <;> rfl

theorem Period.withLow_withLow (p : Period) (d : BitVec 4) : Period.withLow (Period.withLow p d) d = Period.withLow p d := by
  rw [withLow, withLow, high_of_hiLo]

theorem Period.withHigh_withHigh (p : Period) (h : BitVec 6) :
    Period.withHigh (Period.withHigh p h) h = Period.withHigh p h := by
  rw [withHigh, withHigh, low_of_hiLo]

theorem ChipState.writePeriod_writePeriod (c : ChipState) (k : ToneChannel) (b : Byte) :
    (c.writePeriod k b).writePeriod k b = c.writePeriod k b := by
  unfold writePeriod
  split
  · simp only [writeToneLow, PerTone.get_set_same, PerTone.set_set, Period.withLow_withLow]
  · simp only [writeToneHigh, PerTone.get_set_same, PerTone.set_set, Period.withHigh_withHigh]

theorem ChipState.writeSelected_latched (c : ChipState) (b : Byte) : (c.writeSelected b).latched = c.latched := by
  unfold writeSelected
  split
  · rfl
  · split
    next k _ =>
      obtain ⟨p, h⟩ := c.writePeriod_eq k b
      rw [h]
      rfl
    next => rfl

theorem ChipState.writeSelected_writeSelected (c : ChipState) (b : Byte) :
    (c.writeSelected b).writeSelected b = c.writeSelected b := by
  obtain ⟨hq, hv⟩ := (latched_eq_iff _ _).mp (c.writeSelected_latched b)
  rw [writeSelected, hq, hv]
  unfold writeSelected
  split
  · simp only [writeVolume, PerChannel.set_set]
  · split
    · exact c.writePeriod_writePeriod _ b
    · rfl

theorem ChipState.latchedBy_of_latched_eq {c d : ChipState} {b : Byte} (h : d.latched = (c.latchedBy b).latched) :
    d.latchedBy b = d := by
  unfold latchedBy at h ⊢
  split
  next hb =>
    obtain ⟨hq, hv⟩ := (latched_eq_iff _ _).mp h
    rw [if_pos hb] at hq hv
    rw [latch, ← show d.channelSelect = fieldCc b from hq, ← show d.volumeOrTone = fieldT b from hv]
  next => rfl

/-- A byte written twice ends as written once: the latch and the selected register already hold its bits (R49). -/
theorem ChipState.written_written (c : ChipState) (b : Byte) : (c.written b).written b = c.written b := by
  have hlatched : (c.written b).latchedBy b = c.written b :=
    latchedBy_of_latched_eq ((c.latchedBy b).writeSelected_latched b)
  rw [written, hlatched]
  exact (c.latchedBy b).writeSelected_writeSelected b

/-- Settles O23: a write is idempotent, a panning write replaces the mask by itself, a read writes no element. -/
theorem immediateRepeatIsIdle : Obligations.ImmediateRepeatIsIdle := by
  rintro s t e (⟨b, rfl | rfl⟩ | rfl) h
  · obtain ⟨hu, rfl⟩ := eq_written_of_apply_write h
    rw [apply_write (s := { s with chip := s.chip.written b, reply := none }) hu b]
    simp only [ChipState.written_written]
  · obtain ⟨hu, rfl⟩ := (State.complete_eq_next_iff _ _ _ _).mp h
    exact exec_setpan hu b
  · obtain ⟨hu, rfl⟩ := (State.complete_eq_next_iff _ _ _ _).mp h
    exact exec_read hu

/-! ### The programmed registers follow from the bytes -/

theorem ChipState.programmed_eq_iff (c d : ChipState) :
    c.programmed = d.programmed ↔ c.volume = d.volume ∧ c.toneReload = d.toneReload ∧ c.noiseMode = d.noiseMode ∧
      c.noiseRate = d.noiseRate ∧ c.channelSelect = d.channelSelect ∧ c.volumeOrTone = d.volumeOrTone := by
  rw [programmed, programmed, Programmed.mk.injEq]

theorem ChipState.latchedBy_programmed_congr {c d : ChipState} (h : c.programmed = d.programmed) (b : Byte) :
    (c.latchedBy b).programmed = (d.latchedBy b).programmed := by
  obtain ⟨hvolume, htone, hmode, hrate, -⟩ := (programmed_eq_iff c d).mp h
  unfold latchedBy
  split
  · exact (programmed_eq_iff _ _).mpr ⟨hvolume, htone, hmode, hrate, rfl, rfl⟩
  · exact h

theorem ChipState.writePeriod_programmed_congr {c d : ChipState} (h : c.programmed = d.programmed) (k : ToneChannel)
    (b : Byte) : (c.writePeriod k b).programmed = (d.writePeriod k b).programmed := by
  obtain ⟨hvolume, htone, hrest⟩ := (programmed_eq_iff c d).mp h
  unfold writePeriod
  split
  · exact (programmed_eq_iff _ _).mpr ⟨hvolume, by simp only [writeToneLow_toneReload, htone], hrest⟩
  · exact (programmed_eq_iff _ _).mpr ⟨hvolume, by simp only [writeToneHigh_toneReload, htone], hrest⟩

theorem ChipState.writeSelected_programmed_congr {c d : ChipState} (h : c.programmed = d.programmed) (b : Byte) :
    (c.writeSelected b).programmed = (d.writeSelected b).programmed := by
  obtain ⟨hvolume, htone, hmode, hrate, hq, hv⟩ := (programmed_eq_iff c d).mp h
  rw [writeSelected, writeSelected, hq, hv]
  split
  · exact (programmed_eq_iff _ _).mpr ⟨by simp only [writeVolume_volume, hvolume], htone, hmode, hrate, hq, hv⟩
  · split
    · exact writePeriod_programmed_congr h _ b
    · exact (programmed_eq_iff _ _).mpr ⟨hvolume, htone, rfl, rfl, hq, hv⟩

/-- What a write makes of the programmed registers and the latch depends on them and the byte alone (R97). -/
theorem ChipState.written_programmed_congr {c d : ChipState} (h : c.programmed = d.programmed) (b : Byte) :
    (c.written b).programmed = (d.written b).programmed :=
  writeSelected_programmed_congr (latchedBy_programmed_congr h b) b

theorem ChipState.tick_programmed (c : ChipState) : c.tick.programmed = c.programmed := by
  obtain ⟨hvolume, htone, hq, hv, hmode, hrate, -⟩ := c.tick_frame
  exact (programmed_eq_iff _ _).mpr ⟨hvolume, htone, hmode, hrate, hq, hv⟩

theorem ChipState.pulse_programmed (c : ChipState) : c.pulse.programmed = c.programmed := by
  rcases c.pulse_cases with ⟨-, h⟩ | ⟨-, h⟩ <;> rw [h]
  · exact (c.setDivider 0).tick_programmed
  · rfl

theorem apply_advance {s : State} (hu : s.usable = true) :
    s.apply .advance = .next { s with chip := s.chip.pulse, reply := none } :=
  exec_advance hu

/-- Between the writes the pulses can be left out: from states programmed alike, a sequence and its writes alone end in
states programmed alike (R97). -/
theorem applyAll_filter_programmed {s s' : State} {es : List HostEvent} (hu : s.usable = true) (hu' : s'.usable = true)
    (hp : s.chip.programmed = s'.chip.programmed) (hes : ∀ e ∈ es, e = .advance ∨ ∃ b, e = .write b) :
    ∃ t t', s.applyAll es = .next t ∧ s'.applyAll (es.filter (· != .advance)) = .next t' ∧
      t.chip.programmed = t'.chip.programmed := by
  induction es generalizing s s' with
  | nil => exact ⟨s, s', rfl, rfl, hp⟩
  | cons e es ih =>
    have hrest : ∀ e ∈ es, e = .advance ∨ ∃ b, e = .write b := fun e he => hes e (List.mem_cons_of_mem _ he)
    rcases hes e List.mem_cons_self with rfl | ⟨b, rfl⟩
    · rw [State.applyAll_cons (apply_advance hu), List.filter_cons_of_neg (by decide)]
      exact ih hu hu' (s.chip.pulse_programmed.trans hp) hrest
    · rw [State.applyAll_cons (apply_write hu b), List.filter_cons_of_pos (by simp),
        State.applyAll_cons (apply_write hu' b)]
      exact ih hu hu' (ChipState.written_programmed_congr hp b) hrest

/-- Settles O24: each sequence ends programmed as its writes alone do from `s'`, and the writes are the same. -/
theorem writesDetermineRegisters : Obligations.WritesDetermineRegisters := by
  intro s s' es es' hu hu' hp hes hes' hfilter
  obtain ⟨t, w, ht, hw, htw⟩ := applyAll_filter_programmed hu hu' hp hes
  obtain ⟨t', w', ht', hw', htw'⟩ := applyAll_filter_programmed hu' hu' rfl hes'
  rw [hfilter] at hw
  cases hw.symm.trans hw'
  exact ⟨t, t', ht, ht', htw.trans htw'.symm⟩

end Sys2Proof.Machine
end

section
/-! PROOF. What a pulse moves (R43, R97, R135), the noise channel at a tick (R104 to R108), the order of a tick's steps
(R112), and both channels followed through runs of ticks (R116, R162). -/

namespace Sys2Proof.Machine

/-! ### What a pulse moves -/

/-- Settles O27: only the clock moves the pair, and between ticks a pulse moves the divider alone. -/
theorem samplesChangeOnlyAtTicks : Obligations.SamplesChangeOnlyAtTicks := by
  intro s t e h hr hl hd
  by_cases ha : e = .advance
  · subst ha
    obtain ⟨-, rfl⟩ := (State.complete_eq_next_iff _ _ _ _).mp h
    rw [State.sampleOutput, ChipState.pulse_eq_setDivider (hd rfl)]
    rfl
  · have hclocked := apply_keeps_clocked ha hr hl h
    exact Prod.ext (congrArg Clocked.currentSampleLeft hclocked) (congrArg Clocked.currentSampleRight hclocked)

theorem ChipState.pulse_panning (c : ChipState) : c.pulse.panning = c.panning := by
  rcases c.pulse_cases with ⟨-, h⟩ | ⟨-, h⟩ <;> rw [h]
  · obtain ⟨-, -, -, -, -, -, hp, -⟩ := (c.setDivider 0).tick_frame
    exact hp
  · rfl

/-- Settles O33: a pulse keeps what is programmed and the mask, and with no tick it is a write of the divider. -/
theorem advanceLeavesRegisters : Obligations.AdvanceLeavesRegisters := by
  intro s t h
  obtain ⟨-, rfl⟩ := (State.complete_eq_next_iff _ _ _ _).mp h
  refine ⟨s.chip.pulse_programmed, s.chip.pulse_panning, rfl, rfl, rfl, rfl, fun hd => ?_⟩
  dsimp only
  rw [ChipState.pulse_eq_setDivider hd]
  rfl

/-- Settles O47: the reload reads the period with its new low nibble. -/
theorem latchToDataWindow : Obligations.LatchToDataWindow := by
  intro s k d hu hd hc
  have hlatch := (apply_toneLatch s k d).trans (State.complete_of_usable hu _ _)
  refine ⟨_, State.applyAll_pair hlatch (apply_advance hu), ?_⟩
  have htick : ((s.chip.latch k.index false).writeToneLow k d).pulse =
      (((s.chip.latch k.index false).writeToneLow k d).setDivider 0).tick := ChipState.pulse_eq_tick hd
  obtain ⟨-, hclock⟩ := ChipState.tick_tone_of_fire (k := k)
    (c := ((s.chip.latch k.index false).writeToneLow k d).setDivider 0) hc
  dsimp only
  rw [htick, hclock, ChipState.setDivider_toneReload, ChipState.writeToneLow_toneReload, PerTone.get_set_same]
  rfl

/-! ### The noise channel at a tick -/

namespace ChipState

variable {c : ChipState}

/-- A noise counter that reaches zero samples, shifts and reloads, after the zero guard (R104 to R108). -/
theorem tick_noise_of_fire (h : c.noiseClock = 1) :
    c.tick.noiseBit = (guardZero c.noiseShiftRegister).getLsbD 0 ∧
      c.tick.noiseShiftRegister = noiseShift c.noiseMode (guardZero c.noiseShiftRegister) ∧
      c.tick.noiseClock = noiseReload c.noiseRate c.toneReload.c := by
  rw [tick_noiseBit, tick_noiseShiftRegister, tick_noiseClock, if_pos h, if_pos h, if_pos h]
  exact ⟨rfl, rfl, rfl⟩

/-- A noise counter that does not reach zero counts down and keeps the bit and the register (R103, R104). -/
theorem tick_noise_of_no_fire (h : c.noiseClock ≠ 1) :
    c.tick.noiseBit = c.noiseBit ∧ c.tick.noiseShiftRegister = c.noiseShiftRegister ∧
      c.tick.noiseClock = c.noiseClock - 1 := by
  rw [tick_noiseBit, tick_noiseShiftRegister, tick_noiseClock, if_neg h, if_neg h, if_neg h]
  exact ⟨rfl, rfl, rfl⟩

end ChipState

/-- The reload of each rate (R108). -/
theorem noiseReload_eq (r : BitVec 2) (p : Period) :
    noiseReload r p =
      ((if r = 0 then 32 else if r = 1 then 64 else if r = 2 then 128 else 2 * (p.toNat + 1) : Nat) : Int) := by
  have hr : r = 0 ∨ r = 1 ∨ r = 2 ∨ r = 3 := by revert r; decide
  rcases hr with rfl | rfl | rfl | rfl <;> rfl

/-- Settles O30: the pulse at divider 15 is a tick, on which the counter at 1 fires. -/
theorem noiseSampleAndReload : Obligations.NoiseSampleAndReload := by
  intro s hu hd
  refine ⟨_, exec_advance hu, ?_⟩
  simp only [ChipState.pulse_eq_tick hd]
  refine ⟨fun hfire => ?_, fun hkeep => ?_⟩
  · obtain ⟨hbit, -, hclock⟩ :=
      ChipState.tick_noise_of_fire (c := s.chip.setDivider 0) (Int.sub_eq_zero.mp hfire)
    rw [hclock]
    refine ⟨hbit, fun hr => ?_, fun hr => ?_, fun hr => ?_, fun hr => ?_⟩ <;>
      rw [ChipState.setDivider_noiseRate, hr, noiseReload_eq] <;> simp
  · obtain ⟨hbit, -, hclock⟩ :=
      ChipState.tick_noise_of_no_fire (c := s.chip.setDivider 0) fun h => hkeep (Int.sub_eq_zero.mpr h)
    exact ⟨hbit, hclock⟩

theorem getLsbD_top_noiseShift (mode : Bool) (x : Lfsr) : (noiseShift mode x).getLsbD 14 = noiseFeedback mode x :=
  (getLsbD_noiseShift mode x 14 (by decide)).trans (if_pos rfl)

theorem getLsbD_low_noiseShift (mode : Bool) (x : Lfsr) {i : Nat} (hi : i < 14) :
    (noiseShift mode x).getLsbD i = x.getLsbD (i + 1) :=
  (getLsbD_noiseShift mode x i (hi.trans (by decide))).trans (if_neg hi.ne)

/-- The feedback in LFSR mode, whichever value of `noiseMode` selects it (R107). -/
theorem noiseFeedback_of_lfsr {mode : Bool} (h : mode = lfsrModeValue) (x : Lfsr) :
    noiseFeedback mode x = (x.getLsbD 0 ^^ x.getLsbD 1) :=
  if_pos h

/-- The feedback in periodic mode, whichever value of `noiseMode` selects it (R107). -/
theorem noiseFeedback_of_periodic {mode : Bool} (h : mode ≠ lfsrModeValue) (x : Lfsr) :
    noiseFeedback mode x = x.getLsbD 0 :=
  if_neg h

/-- Settles O31: a fire shifts the guarded register, whose top bit is the feedback of the mode. -/
theorem noiseShiftOnFire : Obligations.NoiseShiftOnFire := by
  intro s hu hd
  refine ⟨_, exec_advance hu, ?_⟩
  simp only [ChipState.pulse_eq_tick hd]
  refine ⟨fun hkeep => ?_, fun hfire x hx => ?_⟩
  · obtain ⟨-, hshift, -⟩ :=
      ChipState.tick_noise_of_no_fire (c := s.chip.setDivider 0) fun h => hkeep (Int.sub_eq_zero.mpr h)
    exact hshift
  · have hshift : (s.chip.setDivider 0).tick.noiseShiftRegister = noiseShift s.chip.noiseMode x := by
      obtain ⟨-, hshift, -⟩ := ChipState.tick_noise_of_fire (c := s.chip.setDivider 0) (Int.sub_eq_zero.mp hfire)
      rw [hx]
      exact hshift
    rw [hshift, getLsbD_top_noiseShift]
    exact ⟨fun hmode => noiseFeedback_of_periodic (ne_of_beq_false hmode) x,
      fun hmode => noiseFeedback_of_lfsr (eq_of_beq hmode) x, fun i hi => getLsbD_low_noiseShift _ x hi,
      fun hmode => noiseFeedback_of_lfsr hmode x,
      fun hmode => noiseFeedback_of_periodic (by rw [hmode]; decide) x⟩

/-! ### The steps of a tick commute -/

theorem PerTone.set_comm {α : Type} (x : PerTone α) {j k : ToneChannel} (h : j ≠ k) (v w : α) :
    (x.set j v).set k w = (x.set k w).set j v := by
  refine PerTone.ext_get fun i => ?_
  rw [get_set, get_set, get_set, get_set]
  by_cases hj : i = j
  · subst hj
    rw [if_neg h, if_pos rfl, if_pos rfl]
  · rw [if_neg hj, if_neg hj]

/-- The noise fire writes nothing a tone step reads, and the other way round (R112). -/
theorem ChipState.stepNoise_stepTone_comm (c : ChipState) (k : ToneChannel) :
    c.stepNoise.stepTone k = (c.stepTone k).stepNoise := by
  simp only [stepNoise_eq, stepTone_eq]

theorem ChipState.toneFire_comm (c : ChipState) {j k : ToneChannel} (h : j ≠ k) :
    (c.toneFire j).toneFire k = (c.toneFire k).toneFire j := by
  simp only [toneFire, flipPhase, PerTone.get_set_other _ h, PerTone.get_set_other _ h.symm, PerTone.set_comm _ h]

/-- Each tone step reads and writes its own channel's counter and phase (R112). -/
theorem ChipState.stepTone_comm (c : ChipState) (j k : ToneChannel) :
    (c.stepTone j).stepTone k = (c.stepTone k).stepTone j := by
  by_cases h : j = k
  · rw [h]
  · have hother (i l : ToneChannel) (hil : l ≠ i) : (c.toneFire i).clock.get l = c.clock.get l := by
      rw [toneFire_clock, PerTone.get_set_other _ hil]
    by_cases hj : c.clock.get j = 0 <;> by_cases hk : c.clock.get k = 0
    · simp only [stepTone, hj, hk, if_true, hother _ _ h, hother _ _ (Ne.symm h), toneFire_comm c h]
    · simp only [stepTone, hj, hk, if_true, if_false, hother _ _ (Ne.symm h)]
    · simp only [stepTone, hj, hk, if_true, if_false, hother _ _ h]
    · simp only [stepTone, hj, hk, if_false]

/-- Settles O35: no step of a tick reads what another writes. -/
theorem tickStepsCommute : Obligations.TickStepsCommute :=
  fun c j k => ⟨c.stepNoise_stepTone_comm k, c.stepTone_comm j k⟩

/-! ### Runs of ticks -/

namespace ChipState

variable {c : ChipState}

theorem tick_iterate_sampleClockDivider (c : ChipState) (n : Nat) :
    (tick^[n] c).sampleClockDivider = c.sampleClockDivider := by
  induction n with
  | zero => rfl
  | succ n ih => rw [Function.iterate_succ_apply', tick_sampleClockDivider, ih]

theorem tick_iterate_programmed (c : ChipState) (n : Nat) : (tick^[n] c).programmed = c.programmed := by
  induction n with
  | zero => rfl
  | succ n ih => rw [Function.iterate_succ_apply', tick_programmed, ih]

/-- Until its count has run, the noise counter counts down and keeps the bit and the register. -/
theorem tick_iterate_noise_countdown {m j : Nat} (hc : c.noiseClock = (m : Int) + 1) (hj : j ≤ m) :
    (tick^[j] c).noiseBit = c.noiseBit ∧ (tick^[j] c).noiseShiftRegister = c.noiseShiftRegister ∧
      (tick^[j] c).noiseClock = (m : Int) + 1 - j := by
  induction j with
  | zero => simp [hc]
  | succ j ih =>
    obtain ⟨hbit, hshift, hclock⟩ := ih (by omega)
    have hkeep : (tick^[j] c).noiseClock ≠ 1 := by omega
    obtain ⟨hbit', hshift', hclock'⟩ := tick_noise_of_no_fire hkeep
    rw [Function.iterate_succ_apply', hbit', hshift', hclock', hclock]
    exact ⟨hbit, hshift, by push_cast; omega⟩

/-- A noise counter at `m + 1` fires on tick `m + 1` (R104 to R108). -/
theorem tick_iterate_noise_fire {m : Nat} (hc : c.noiseClock = (m : Int) + 1) :
    (tick^[m + 1] c).noiseBit = (guardZero c.noiseShiftRegister).getLsbD 0 ∧
      (tick^[m + 1] c).noiseShiftRegister = noiseShift c.noiseMode (guardZero c.noiseShiftRegister) ∧
      (tick^[m + 1] c).noiseClock = noiseReload c.noiseRate c.toneReload.c := by
  obtain ⟨-, hshift, hclock⟩ := tick_iterate_noise_countdown hc le_rfl
  obtain ⟨-, htone, hmode, hrate, -⟩ := (programmed_eq_iff _ _).mp (tick_iterate_programmed c m)
  have hfire : (tick^[m] c).noiseClock = 1 := by omega
  obtain ⟨hbit', hshift', hclock'⟩ := tick_noise_of_fire hfire
  rw [Function.iterate_succ_apply', hbit', hshift', hclock', hshift, htone, hmode, hrate]
  exact ⟨rfl, rfl, rfl⟩

end ChipState

/-- Settles O36: the counter counts its period down, and each half cycle inverts the phase. -/
theorem toneHalfCycle : Obligations.ToneHalfCycle := by
  intro s k n hu hd hn hc
  refine ⟨fun j hj => ?_, ?_, ?_⟩
  · obtain ⟨t, ht, htick⟩ := applyAll_tickMany hu hd j
    have hrun := ChipState.tick_iterate_countdown hc hj
    rw [← htick] at hrun
    exact ⟨t, ht, hrun⟩
  · obtain ⟨t, ht, htick⟩ := applyAll_tickMany hu hd (n + 1)
    obtain ⟨hphase, hclock⟩ := ChipState.tick_iterate_fire hc
    refine ⟨t, ht, ?_⟩
    rw [htick, ChipState.tick_iterate_sampleClockDivider, hphase, hclock, hn]
    exact ⟨rfl, rfl, hd⟩
  · obtain ⟨t, ht, htick⟩ := applyAll_tickMany hu hd ((n + 1) * 2)
    obtain ⟨hphase, hclock⟩ := ChipState.tick_iterate_halfCycles hn.symm hc 2
    have hpulses : advanceMany (32 * (n + 1)) = tickMany ((n + 1) * 2) := congrArg advanceMany (by omega)
    rw [hpulses]
    refine ⟨t, ht, ?_⟩
    rw [htick, ChipState.tick_iterate_sampleClockDivider, hphase, hclock]
    exact ⟨Bool.xor_false _, rfl, hd⟩

/-- Settles O38: the counter counts its reload value down, fires, and is reloaded by the same rate and period. -/
theorem noiseFireInterval : Obligations.NoiseFireInterval := by
  intro s n hu hd hn hc
  have hreload : noiseReload s.chip.noiseRate s.chip.toneReload.c = (n : Int) := by rw [noiseReload_eq, ← hn]
  obtain ⟨hpos, -⟩ := noiseReload_range s.chip.noiseRate s.chip.toneReload.c
  obtain ⟨m, rfl⟩ : ∃ m, n = m + 1 := ⟨n - 1, by omega⟩
  refine ⟨fun j hj => ?_, ?_⟩
  · obtain ⟨t, ht, htick⟩ := applyAll_tickMany hu hd j
    obtain ⟨hbit, hshift, -⟩ := ChipState.tick_iterate_noise_countdown hc (Nat.le_of_lt_succ hj)
    rw [← htick] at hbit hshift
    exact ⟨t, ht, hbit, hshift⟩
  · obtain ⟨t, ht, htick⟩ := applyAll_tickMany hu hd (m + 1)
    obtain ⟨hbit, hshift, hclock⟩ := ChipState.tick_iterate_noise_fire hc
    rw [← htick] at hbit hshift hclock
    refine ⟨t, ht, hclock.trans hreload, fun x hx => ?_⟩
    rw [hx]
    exact ⟨hbit, hshift⟩

end Sys2Proof.Machine
end

section
/-! PROOF. The mixer (R113 to R115) and the block left alone after reset (R162): what a channel adds to a side, which
elements a side depends on, and that silence stays silence. -/

namespace Sys2Proof.Machine

/-! ### What a channel adds -/

theorem sampleOutput_of_tick {s : State} (hd : s.chip.sampleClockDivider = 15) :
    ({ s with chip := s.chip.pulse, reply := none } : State).sampleOutput =
      ((s.chip.setDivider 0).tick.mixSide .left, (s.chip.setDivider 0).tick.mixSide .right) := by
  rw [State.sampleOutput, ChipState.pulse_eq_tick hd]
  rfl

theorem ChipState.contribution_of_silent {c : ChipState} {k : Channel} (h : c.volume.get k = 15) (side : Side) :
    c.contribution side k = 0 := by
  rw [contribution, h, show volEntry 15 = 0 from rfl, Nat.zero_mul, ite_self]

theorem ChipState.contribution_of_unrouted {c : ChipState} {side : Side} {k : Channel}
    (h : c.panning.getLsbD (panBit side k) = false) : c.contribution side k = 0 := by
  rw [contribution, h, Bool.and_false]
  rfl

/-- A channel that is on and routed adds its volume's entry (R114). -/
theorem ChipState.contribution_of_routed {c : ChipState} {side : Side} {k : Channel} (hon : c.isOn k = true)
    (hroute : c.panning.getLsbD (panBit side k) = true) :
    c.contribution side k = volEntry (c.volume.get k) * Config.mixScale := by
  rw [contribution, hon, hroute]
  rfl

theorem ChipState.mixSide_eq_zero {c : ChipState} {side : Side} (h : ∀ k, c.contribution side k = 0) :
    c.mixSide side = 0 := by
  simp only [mixSide, h]

@[simp] theorem ChipState.tick_volume (c : ChipState) : c.tick.volume = c.volume := by
  obtain ⟨h, -⟩ := c.tick_frame
  exact h

@[simp] theorem ChipState.tick_panning (c : ChipState) : c.tick.panning = c.panning := by
  obtain ⟨-, -, -, -, -, -, h, -⟩ := c.tick_frame
  exact h

/-- Settles O32: each side is the sum of the four contributions after the tick, route by route. -/
theorem mixOnTick : Obligations.MixOnTick := by
  intro s hu hd
  refine ⟨_, exec_advance hu, ?_⟩
  simp only [ChipState.pulse_eq_tick hd]
  obtain ⟨hleft, hright⟩ := (s.chip.setDivider 0).tick_samples
  rw [hleft, hright, ChipState.mixSide, ChipState.mixSide]
  simp only [ChipState.tick_contribution]
  exact ⟨rfl, rfl⟩

/-- Settles O44: no channel is routed to either side. -/
theorem emptyMaskMutes : Obligations.EmptyMaskMutes := by
  intro s hu hd hp
  refine ⟨_, exec_advance hu, ?_⟩
  have hmute (side : Side) : (s.chip.setDivider 0).tick.mixSide side = 0 :=
    ChipState.mixSide_eq_zero fun k => ChipState.contribution_of_unrouted <| by
      rw [ChipState.tick_panning, ChipState.setDivider_panning, hp]
      exact BitVec.getLsbD_zero
  rw [sampleOutput_of_tick hd, hmute, hmute]

/-- Settles O46: four channels at entry 255, each on and routed to both sides. -/
theorem loudestSample : Obligations.LoudestSample := by
  intro s t hd hvolume hp h hphase hbit
  obtain ⟨-, rfl⟩ := (State.complete_eq_next_iff _ _ _ _).mp h
  dsimp only at hphase hbit
  rw [ChipState.pulse_eq_tick hd] at hphase hbit
  have hadd (side : Side) (k : Channel) :
      (s.chip.setDivider 0).tick.contribution side k = 255 * Config.mixScale := by
    have hon : (s.chip.setDivider 0).tick.isOn k = true := by
      cases k <;> simp only [ChipState.isOn, hphase, hbit]
    have hroute : (0xFF : Byte).getLsbD (panBit side k) = true := by cases side <;> cases k <;> rfl
    have hloud : (⟨0, 0, 0, 0⟩ : PerChannel VolIndex).get k = 0 := by cases k <;> rfl
    rw [ChipState.contribution_of_routed hon (by rw [ChipState.tick_panning, ChipState.setDivider_panning, hp, hroute]),
      ChipState.tick_volume, ChipState.setDivider_volume, hvolume, hloud]
    rfl
  have hsum (side : Side) : (s.chip.setDivider 0).tick.mixSide side = 1020 * Config.mixScale := by
    rw [ChipState.mixSide, hadd, hadd, hadd, hadd]
    omega
  rw [sampleOutput_of_tick hd, hsum, hsum]

/-! ### What a side depends on -/

/-- Two states of the same volumes mix alike at a tick when every channel that is not silent is on in both and routed in
both, or in neither. -/
theorem ChipState.tick_mixSide_eq {c d : ChipState} (side : Side) (hvolume : d.volume = c.volume)
    (h : ∀ k, c.volume.get k ≠ 15 →
      d.tick.isOn k = c.tick.isOn k ∧ d.panning.getLsbD (panBit side k) = c.panning.getLsbD (panBit side k)) :
    d.tick.mixSide side = c.tick.mixSide side := by
  refine tick_mixSide_congr side fun k => ?_
  by_cases hk : c.volume.get k = 15
  · rw [contribution_of_silent (by rw [tick_volume, hvolume, hk]), contribution_of_silent (by rw [tick_volume, hk])]
  · obtain ⟨hon, hroute⟩ := h k hk
    rw [tick_contribution, tick_contribution, hvolume, hon, hroute]

theorem Channel.eq_toChannel_or_noise (k : Channel) : (∃ i : ToneChannel, k = i.toChannel) ∨ k = .noise := by
  cases k with
  | a => exact .inl ⟨.a, rfl⟩
  | b => exact .inl ⟨.b, rfl⟩
  | c => exact .inl ⟨.c, rfl⟩
  | noise => exact .inr rfl

/-- The flags after a tick do not depend on the mask. -/
theorem ChipState.tick_isOn_setPanning (c : ChipState) (p : Byte) (k : Channel) :
    ({ c with panning := p } : ChipState).tick.isOn k = c.tick.isOn k := by
  obtain ⟨i, rfl⟩ | rfl := k.eq_toChannel_or_noise
  · exact (tick_isOn_tone _ i).trans (tick_isOn_tone c i).symm
  · exact (tick_isOn_noise _).trans (tick_isOn_noise c).symm

theorem getLsbD_panBit_left (p : Byte) (k : Channel) :
    p.getLsbD (panBit .left k) = (p.extractLsb' 4 4).getLsbD k.index.toNat := by
  cases k <;> simp [panBit, Channel.index]

theorem getLsbD_panBit_right (p : Byte) (k : Channel) :
    p.getLsbD (panBit .right k) = (p.extractLsb' 0 4).getLsbD k.index.toNat := by
  cases k <;> simp [panBit, Channel.index]

/-- Settles O45: the flags do not depend on the mask, and the routes of a side are in its half. -/
theorem sidesAreIndependent : Obligations.SidesAreIndependent := by
  intro s p hu hd
  refine ⟨_, _, exec_advance hu, exec_advance (s := { s with chip := { s.chip with panning := p } }) hu, ?_⟩
  dsimp only
  rw [ChipState.pulse_eq_tick hd, ChipState.pulse_eq_tick (c := { s.chip with panning := p }) hd]
  have hmix (side : Side)
      (hroute : ∀ k, p.getLsbD (panBit side k) = s.chip.panning.getLsbD (panBit side k)) :
      (({ s.chip with panning := p } : ChipState).setDivider 0).tick.mixSide side =
        (s.chip.setDivider 0).tick.mixSide side :=
    ChipState.tick_mixSide_eq side rfl fun k _ =>
      ⟨ChipState.tick_isOn_setPanning (s.chip.setDivider 0) p k, hroute k⟩
  refine ⟨fun hhalf => hmix .left fun k => ?_, fun hhalf => hmix .right fun k => ?_⟩
  · rw [getLsbD_panBit_left, getLsbD_panBit_left, hhalf]
  · rw [getLsbD_panBit_right, getLsbD_panBit_right, hhalf]

/-! ### A silent channel -/

/-- The routes of two channels are different bits of the mask. -/
theorem panBit_ne {j k : Channel} (h : k ≠ j) (side : Side) :
    panBit side k < 8 ∧ panBit side k ≠ j.index.toNat ∧ panBit side k ≠ 4 + j.index.toNat := by
  cases side <;> cases k <;> cases j <;> simp_all [panBit, Channel.index]

/-- The mask and one channel's flag are no matter to the next tick's samples when that channel is silent and the mask
changes in its routes alone (R115). -/
theorem ChipState.tick_mixSide_of_silent {c d : ChipState} {j : Channel} (hsilent : c.volume.get j = 15)
    (hvolume : d.volume = c.volume) (hon : ∀ k, k ≠ j → d.tick.isOn k = c.tick.isOn k)
    (hroute : ∀ i < 8, i ≠ j.index.toNat → i ≠ 4 + j.index.toNat → d.panning.getLsbD i = c.panning.getLsbD i)
    (side : Side) : d.tick.mixSide side = c.tick.mixSide side := by
  refine tick_mixSide_eq side hvolume fun k hk => ?_
  have hkj : k ≠ j := fun h => hk (h ▸ hsilent)
  obtain ⟨hlt, hright, hleft⟩ := panBit_ne hkj side
  exact ⟨hon k hkj, hroute _ hlt hright hleft⟩

theorem ToneChannel.index_toChannel (k : ToneChannel) : k.toChannel.index = k.index := by cases k <;> rfl

/-- One phase decides no other channel's flag after the tick (R110). -/
theorem ChipState.tick_isOn_setPhase (c : ChipState) (j : ToneChannel) (b : Bool) (p : Byte) {k : Channel}
    (h : k ≠ j.toChannel) :
    ({ c with phase := c.phase.set j b, panning := p } : ChipState).tick.isOn k = c.tick.isOn k := by
  obtain ⟨i, rfl⟩ | rfl := k.eq_toChannel_or_noise
  · have hij : i ≠ j := fun e => h (e ▸ rfl)
    rw [tick_isOn_tone, tick_isOn_tone, PerTone.get_set_other _ hij]
  · exact (tick_isOn_noise _).trans (tick_isOn_noise c).symm

/-- The noise bit decides no tone channel's flag after the tick (R110). -/
theorem ChipState.tick_isOn_setNoiseBit (c : ChipState) (b : Bool) (p : Byte) {k : Channel} (h : k ≠ .noise) :
    ({ c with noiseBit := b, panning := p } : ChipState).tick.isOn k = c.tick.isOn k := by
  obtain ⟨i, rfl⟩ | rfl := k.eq_toChannel_or_noise
  · exact (tick_isOn_tone _ i).trans (tick_isOn_tone c i).symm
  · exact absurd rfl h

/-- Settles O43: a tone channel and the noise channel, each with its flag and its two routes. -/
theorem silentChannelAddsNothing : Obligations.SilentChannelAddsNothing := by
  intro s b p hu hd
  refine ⟨fun k hsilent hroute => ?_, fun hsilent hroute => ?_⟩
  · refine ⟨_, _, exec_advance hu,
      exec_advance (s := { s with chip := { s.chip with phase := s.chip.phase.set k b, panning := p } }) hu, ?_⟩
    have hmix := ChipState.tick_mixSide_of_silent (c := s.chip.setDivider 0)
      (d := { s.chip.setDivider 0 with phase := s.chip.phase.set k b, panning := p }) hsilent rfl
      (fun _ => ChipState.tick_isOn_setPhase (s.chip.setDivider 0) k b p) (by rwa [ToneChannel.index_toChannel])
    rw [sampleOutput_of_tick hd, ← hmix, ← hmix]
    exact (sampleOutput_of_tick (s := { s with
      chip := { s.chip with phase := s.chip.phase.set k b, panning := p } }) hd).symm
  · refine ⟨_, _, exec_advance hu,
      exec_advance (s := { s with chip := { s.chip with noiseBit := b, panning := p } }) hu, ?_⟩
    have hmix := ChipState.tick_mixSide_of_silent (c := s.chip.setDivider 0)
      (d := { s.chip.setDivider 0 with noiseBit := b, panning := p }) (j := .noise) hsilent rfl
      (fun _ => ChipState.tick_isOn_setNoiseBit (s.chip.setDivider 0) b p) hroute
    rw [sampleOutput_of_tick hd, ← hmix, ← hmix]
    exact (sampleOutput_of_tick (s := { s with chip := { s.chip with noiseBit := b, panning := p } }) hd).symm

/-! ### After reset -/

/-- Every channel at volume 15 and both samples 0. -/
def ChipState.Silent (c : ChipState) : Prop :=
  (∀ k, c.volume.get k = 15) ∧ c.currentSampleLeft = 0 ∧ c.currentSampleRight = 0

theorem ChipState.tick_silent {c : ChipState} (h : c.Silent) : c.tick.Silent := by
  obtain ⟨hvolume, -⟩ := h
  have hvolume' (k : Channel) : c.tick.volume.get k = 15 := by rw [tick_volume, hvolume]
  have hmix (side : Side) : c.tick.mixSide side = 0 := mixSide_eq_zero fun k => contribution_of_silent (hvolume' k) side
  exact ⟨hvolume', hmix .left, hmix .right⟩

theorem ChipState.pulse_silent {c : ChipState} (h : c.Silent) : c.pulse.Silent := by
  obtain ⟨-, hp⟩ | ⟨-, hp⟩ := c.pulse_cases <;> rw [hp]
  · exact tick_silent h
  · exact h

theorem ChipState.reset_silent : ChipState.reset.Silent :=
  ⟨fun k => by cases k <;> rfl, rfl, rfl⟩

/-- The three tone channels after reset: period 0, so each tick inverts every phase (R111, R161). -/
theorem tick_iterate_reset_tone (n : Nat) (k : ToneChannel) :
    (ChipState.tick^[n] ChipState.reset).phase.get k = (n % 2 == 1) ∧
      (ChipState.tick^[n] ChipState.reset).clock.get k = 1 := by
  have hphase : ChipState.reset.phase.get k = false := by cases k <;> rfl
  have hrun := ChipState.tick_iterate_tone (c := ChipState.reset) (k := k) (N := 0) (by cases k <;> rfl)
    (by cases k <;> rfl) n
  simpa [hphase, Nat.mod_one] using hrun

/-- Settles O49: silence stays, tick 1 inverts every phase, and tick 32 is the first noise fire. -/
theorem afterResetUntouched : Obligations.AfterResetUntouched := by
  refine ⟨fun n => ?_, ?_, ?_⟩
  · obtain ⟨-, hleft, hright⟩ :=
      Function.Iterate.rec ChipState.Silent ChipState.reset_silent (fun _ => ChipState.pulse_silent) n
    exact ⟨_, applyAll_advanceMany rfl n, Prod.ext hleft hright⟩
  · obtain ⟨t, ht, htick⟩ := applyAll_tickMany (s := State.reset) rfl rfl 1
    have hclock : t.chip.noiseClock = 31 := by rw [htick]; rfl
    refine ⟨t, ht, PerTone.ext_get fun k => ?_, PerTone.ext_get fun k => ?_, hclock⟩ <;> rw [htick]
    · obtain ⟨hphase, -⟩ := tick_iterate_reset_tone 1 k
      exact hphase.trans (by cases k <;> rfl)
    · obtain ⟨-, hclock⟩ := tick_iterate_reset_tone 1 k
      exact hclock.trans (by cases k <;> rfl)
  · obtain ⟨t, ht, htick⟩ := applyAll_tickMany (s := State.reset) rfl rfl 32
    obtain ⟨hbit, hshift, hclock⟩ := ChipState.tick_iterate_noise_fire (c := ChipState.reset) (m := 31) rfl
    refine ⟨t, ht, ?_, ?_, ?_, PerTone.ext_get fun k => ?_⟩ <;> rw [htick]
    · exact hbit.trans (by decide)
    · exact hshift.trans (by decide)
    · exact hclock
    · obtain ⟨hphase, -⟩ := tick_iterate_reset_tone 32 k
      exact hphase.trans (by cases k <;> rfl)

end Sys2Proof.Machine
end

section
/-! PROOF. The noise register's cycles (R107, R109, R121).  A shift moves bits down, so the sampled bits follow a
recurrence; in periodic mode it is a rotation.  In LFSR mode, as the shift respects xor, its powers can be computed with
as polynomials over the field of two elements, where squaring is additive: that gives the shift's 32768th power. -/

namespace Sys2Proof.Machine

/-! ### Bijectivity -/

/-- Settles O39: an injective map of a finite set is a bijection, and 0 is the one value that shifts to 0. -/
theorem noiseShiftIsBijective : Obligations.NoiseShiftIsBijective := by
  intro mode
  have hinj : Function.Injective (noiseShift mode) := fun _ _ => noiseShift_injective mode
  have hfinite : Finite Lfsr := Finite.of_injective _ BitVec.equivFin.injective
  refine ⟨Finite.injective_iff_bijective.mp hinj, fun x => ⟨fun h => hinj ?_, ?_⟩⟩
  · rw [h, noiseShift_zero]
  · rintro rfl
    exact noiseShift_zero mode

/-! ### The shift respects xor -/

theorem noiseFeedback_xor (mode : Bool) (x y : Lfsr) :
    noiseFeedback mode (x ^^^ y) = (noiseFeedback mode x ^^ noiseFeedback mode y) := by
  unfold noiseFeedback
  split
  · rw [BitVec.getLsbD_xor, BitVec.getLsbD_xor, Bool.xor_assoc, Bool.xor_left_comm (y.getLsbD 0), ← Bool.xor_assoc]
  · exact BitVec.getLsbD_xor

theorem noiseShift_xor (mode : Bool) (x y : Lfsr) :
    noiseShift mode (x ^^^ y) = noiseShift mode x ^^^ noiseShift mode y := by
  refine BitVec.eq_of_getLsbD_eq fun i hi => ?_
  rw [BitVec.getLsbD_xor, getLsbD_noiseShift mode _ i hi, getLsbD_noiseShift mode _ i hi,
    getLsbD_noiseShift mode _ i hi]
  split
  · exact noiseFeedback_xor mode x y
  · exact BitVec.getLsbD_xor

theorem iterate_noiseShift_xor (mode : Bool) (n : Nat) (x y : Lfsr) :
    (noiseShift mode)^[n] (x ^^^ y) = (noiseShift mode)^[n] x ^^^ (noiseShift mode)^[n] y := by
  induction n generalizing x y with
  | zero => rfl
  | succ n ih => simp only [Function.iterate_succ_apply, noiseShift_xor, ih]

/-! ### The recurrence of the bits -/

/-- Before they reach the bottom, shifts only move a bit down. -/
theorem getLsbD_iterate_noiseShift (mode : Bool) (x : Lfsr) (n : Nat) {i : Nat} (h : i + n < 15) :
    ((noiseShift mode)^[n] x).getLsbD i = x.getLsbD (i + n) := by
  induction n generalizing i with
  | zero => rfl
  | succ n ih =>
    rw [Function.iterate_succ_apply', getLsbD_low_noiseShift mode _ (by omega), ih (by omega), Nat.add_right_comm,
      Nat.add_assoc]

theorem getLsbD_zero_iterate_noiseShift (mode : Bool) (x : Lfsr) {n : Nat} (h : n < 15) :
    ((noiseShift mode)^[n] x).getLsbD 0 = x.getLsbD n := by
  rw [getLsbD_iterate_noiseShift mode x n (by omega), Nat.zero_add]

/-- Fifteen shifts replace bit `i` by the feedback of shift `i`. -/
theorem getLsbD_iterate_fifteen (mode : Bool) (x : Lfsr) {i : Nat} (hi : i < 15) :
    ((noiseShift mode)^[15] x).getLsbD i = noiseFeedback mode ((noiseShift mode)^[i] x) := by
  have hsplit : 15 = (14 - i) + (1 + i) := by omega
  have htop : i + (14 - i) = 14 := by omega
  rw [hsplit, Function.iterate_add_apply, getLsbD_iterate_noiseShift mode _ _ (by omega), htop, Nat.add_comm 1 i,
    Function.iterate_succ_apply', getLsbD_top_noiseShift]

/-- Periodic mode is a rotation: fifteen shifts are none (R109). -/
theorem noiseShift_iterate_fifteen_periodic {mode : Bool} (h : mode ≠ lfsrModeValue) (x : Lfsr) :
    (noiseShift mode)^[15] x = x := by
  refine BitVec.eq_of_getLsbD_eq fun i hi => ?_
  rw [getLsbD_iterate_fifteen mode x hi, noiseFeedback_of_periodic h, getLsbD_zero_iterate_noiseShift mode x hi]

/-- In LFSR mode fifteen shifts are one shift xor none: the shift is a root of `X ^ 15 = X + 1`. -/
theorem noiseShift_iterate_fifteen_lfsr {mode : Bool} (h : mode = lfsrModeValue) (x : Lfsr) :
    (noiseShift mode)^[15] x = x ^^^ noiseShift mode x := by
  refine BitVec.eq_of_getLsbD_eq fun i hi => ?_
  have hlow : ((noiseShift mode)^[i] x).getLsbD 1 = (noiseShift mode x).getLsbD i := by
    calc ((noiseShift mode)^[i] x).getLsbD (0 + 1)
      _ = (noiseShift mode ((noiseShift mode)^[i] x)).getLsbD 0 := (getLsbD_low_noiseShift mode _ (by decide)).symm
      _ = ((noiseShift mode)^[i] (noiseShift mode x)).getLsbD 0 := by
        rw [← Function.iterate_succ_apply' (noiseShift mode), Function.iterate_succ_apply]
      _ = (noiseShift mode x).getLsbD i := getLsbD_zero_iterate_noiseShift mode _ hi
  rw [getLsbD_iterate_fifteen mode x hi, noiseFeedback_of_lfsr h, BitVec.getLsbD_xor, hlow,
    getLsbD_zero_iterate_noiseShift mode x hi]

theorem getLsbD_noiseSeed {n : Nat} (h : n < 15) : noiseSeed.getLsbD n = (n == 14) := by
  revert n; decide

/-- The first fifteen bits after a reseed, in both modes: fourteen zeros and a one (R121). -/
theorem getLsbD_iterate_noiseSeed (mode : Bool) {n : Nat} (h : n < 15) :
    ((noiseShift mode)^[n] noiseSeed).getLsbD 0 = (n == 14) := by
  rw [getLsbD_zero_iterate_noiseShift mode _ h, getLsbD_noiseSeed h]

/-- Settles O41: the rotation returns every value, so a sampled bit is the one of its fire modulo 15. -/
theorem periodicModeCycle : Obligations.PeriodicModeCycle := by
  have hcycle := noiseShift_iterate_fifteen_periodic (mode := !lfsrModeValue) (by decide)
  refine ⟨hcycle, fun n => ?_⟩
  have hperiodic : Function.IsPeriodicPt (noiseShift (!lfsrModeValue)) 15 noiseSeed := hcycle noiseSeed
  rw [← hperiodic.iterate_mod_apply, getLsbD_iterate_noiseSeed _ (Nat.mod_lt _ (by decide))]

/-- In LFSR mode the bits of fires 16 to 29 after a reseed: thirteen zeros and a one (R121). -/
theorem getLsbD_iterate_noiseSeed_lfsr {n : Nat} (h : n < 14) :
    ((noiseShift lfsrModeValue)^[n + 15] noiseSeed).getLsbD 0 = (n == 13) := by
  have hzero : (n == 14) = false := beq_false_of_ne (by omega)
  have hone : (n + 1 == 14) = (n == 13) := Bool.eq_iff_iff.mpr (by simp)
  rw [Function.iterate_add_apply, noiseShift_iterate_fifteen_lfsr rfl, iterate_noiseShift_xor, BitVec.getLsbD_xor,
    ← Function.iterate_succ_apply, getLsbD_iterate_noiseSeed _ (by omega), getLsbD_iterate_noiseSeed _ (by omega), hzero,
    Bool.false_xor, hone]

/-- In periodic mode the bits of fires 16 to 29 after a reseed: fourteen zeros (R121). -/
theorem getLsbD_iterate_noiseSeed_periodic {n : Nat} (h : n < 14) :
    ((noiseShift (!lfsrModeValue))^[n + 15] noiseSeed).getLsbD 0 = false := by
  rw [Function.iterate_add_apply, noiseShift_iterate_fifteen_periodic (by decide), getLsbD_iterate_noiseSeed _ (by omega)]
  exact beq_false_of_ne (by omega)

/-- Settles O42: the two modes' recurrences agree until the one of fire 15 is at bit 1 for LFSR mode's feedback. -/
theorem bitsAfterReseed : Obligations.BitsAfterReseed := by
  refine ⟨fun mode n => getLsbD_iterate_noiseSeed mode n.isLt, fun n => ?_,
    getLsbD_iterate_noiseSeed_lfsr (n := 13) (by decide), getLsbD_iterate_noiseSeed_periodic (n := 13) (by decide)⟩
  by_cases hn : n.val < 15
  · rw [getLsbD_iterate_noiseSeed _ hn, getLsbD_iterate_noiseSeed _ hn]
  · obtain ⟨m, hm⟩ := Nat.exists_eq_add_of_le' (not_lt.mp hn)
    have hlt : m < 13 := by omega
    rw [hm, getLsbD_iterate_noiseSeed_lfsr (by omega), getLsbD_iterate_noiseSeed_periodic (by omega)]
    exact beq_false_of_ne hlt.ne

/-! ### Powers of the shift in LFSR mode -/

/-- The shift in LFSR mode. -/
abbrev lfsrShift : Lfsr → Lfsr := noiseShift lfsrModeValue

/-- The polynomial with coefficients `cs` at the exponents `n`, `2 * n`, `4 * n`, ..., of the shift, applied to `x`. -/
def lfsrSum : List Bool → Nat → Lfsr → Lfsr
  | [], _, _ => 0#lfsrW
  | c :: cs, n, x => if c then lfsrShift^[n] x ^^^ lfsrSum cs (2 * n) x else lfsrSum cs (2 * n) x

@[simp] theorem lfsrSum_nil (n : Nat) (x : Lfsr) : lfsrSum [] n x = 0#lfsrW := rfl

@[simp] theorem lfsrSum_cons_false (cs : List Bool) (n : Nat) (x : Lfsr) :
    lfsrSum (false :: cs) n x = lfsrSum cs (2 * n) x :=
  rfl

@[simp] theorem lfsrSum_cons_true (cs : List Bool) (n : Nat) (x : Lfsr) :
    lfsrSum (true :: cs) n x = lfsrShift^[n] x ^^^ lfsrSum cs (2 * n) x :=
  rfl

theorem xor_xor_xor_cancel (a b d : Lfsr) : (a ^^^ b) ^^^ (b ^^^ d) = a ^^^ d := by
  rw [BitVec.xor_assoc, ← BitVec.xor_assoc b, BitVec.xor_self, BitVec.zero_xor]

theorem iterate_lfsrShift_lfsrSum (m : Nat) (cs : List Bool) (n : Nat) (x : Lfsr) :
    lfsrShift^[m] (lfsrSum cs n x) = lfsrSum cs n (lfsrShift^[m] x) := by
  induction cs generalizing n with
  | nil => exact Function.iterate_fixed (noiseShift_zero lfsrModeValue) m
  | cons c cs ih =>
    cases c with
    | false => exact ih (2 * n)
    | true =>
      rw [lfsrSum_cons_true, iterate_noiseShift_xor, ih, ← Function.iterate_add_apply, Nat.add_comm,
        Function.iterate_add_apply, ← lfsrSum_cons_true]

theorem lfsrSum_xor (cs : List Bool) (n : Nat) (x y : Lfsr) :
    lfsrSum cs n (x ^^^ y) = lfsrSum cs n x ^^^ lfsrSum cs n y := by
  induction cs generalizing n with
  | nil => exact BitVec.xor_zero.symm
  | cons c cs ih =>
    cases c with
    | false => exact ih (2 * n)
    | true =>
      simp only [lfsrSum_cons_true, ih, iterate_noiseShift_xor]
      ac_rfl

/-- Squaring doubles the exponents: the products of two different terms occur twice and cancel. -/
theorem lfsrSum_lfsrSum (cs : List Bool) (n : Nat) (x : Lfsr) :
    lfsrSum cs n (lfsrSum cs n x) = lfsrSum cs (2 * n) x := by
  induction cs generalizing n with
  | nil => rfl
  | cons c cs ih =>
    cases c with
    | false => exact ih (2 * n)
    | true =>
      simp only [lfsrSum_cons_true, lfsrSum_xor, iterate_lfsrShift_lfsrSum, ih]
      rw [xor_xor_xor_cancel, ← Function.iterate_add_apply, ← two_mul]

/-- The sixteenth power is the second plus the first, which the recurrence says once more shifted. -/
theorem iterate_lfsrShift_sixteen (x : Lfsr) : lfsrShift^[16] x = lfsrShift x ^^^ lfsrShift^[2] x := by
  rw [Function.iterate_succ_apply, noiseShift_iterate_fifteen_lfsr rfl]
  rfl

theorem lfsrSum_cons_not (c : Bool) (cs : List Bool) (n : Nat) (x : Lfsr) :
    lfsrSum ((!c) :: cs) n x = lfsrShift^[n] x ^^^ lfsrSum (c :: cs) n x := by
  cases c with
  | false => rfl
  | true =>
    rw [Bool.not_true, lfsrSum_cons_true, ← BitVec.xor_assoc, BitVec.xor_self, BitVec.zero_xor, lfsrSum_cons_false]

theorem lfsrSum_append_true (cs : List Bool) (n : Nat) (x : Lfsr) :
    lfsrSum (cs ++ [true]) n x = lfsrShift^[2 ^ cs.length * n] x ^^^ lfsrSum cs n x := by
  induction cs generalizing n with
  | nil => simp
  | cons c cs ih =>
    have hexp : 2 ^ cs.length * (2 * n) = 2 ^ (c :: cs).length * n := by
      rw [List.length_cons, Nat.pow_succ, Nat.mul_assoc]
    cases c with
    | false => rw [List.cons_append, lfsrSum_cons_false, ih, hexp, lfsrSum_cons_false]
    | true =>
      rw [List.cons_append, lfsrSum_cons_true, ih, hexp, lfsrSum_cons_true]
      ac_rfl

theorem lfsrSum_append_false (cs : List Bool) (n : Nat) (x : Lfsr) : lfsrSum (cs ++ [false]) n x = lfsrSum cs n x := by
  induction cs generalizing n with
  | nil => rfl
  | cons c cs ih =>
    cases c with
    | false => exact ih (2 * n)
    | true => rw [List.cons_append, lfsrSum_cons_true, ih, lfsrSum_cons_true]

/-- Doubled exponents reach 16, which the recurrence brings back to 1 and 2. -/
theorem lfsrSum_two (a b c d : Bool) (x : Lfsr) : lfsrSum [a, b, c, d] 2 x = lfsrSum [d, a ^^ d, b, c] 1 x := by
  cases d with
  | false => rw [Bool.xor_false, lfsrSum_cons_false, ← lfsrSum_append_false]; rfl
  | true =>
    calc lfsrSum ([a, b, c] ++ [true]) 2 x
      _ = lfsrShift^[16] x ^^^ lfsrSum [a, b, c] 2 x := lfsrSum_append_true [a, b, c] 2 x
      _ = lfsrShift x ^^^ (lfsrShift^[2] x ^^^ lfsrSum [a, b, c] 2 x) := by
        rw [iterate_lfsrShift_sixteen, BitVec.xor_assoc]
      _ = lfsrShift x ^^^ lfsrSum [a ^^ true, b, c] 2 x := by rw [Bool.xor_true, lfsrSum_cons_not]

/-- Coefficients at the exponents 1, 2, 4 and 8. -/
abbrev ShiftCoeffs : Type := Bool × Bool × Bool × Bool

/-- The polynomial with the given coefficients, of the shift, applied to `x`. -/
def ShiftCoeffs.eval (p : ShiftCoeffs) (x : Lfsr) : Lfsr := lfsrSum [p.1, p.2.1, p.2.2.1, p.2.2.2] 1 x

/-- The coefficients of the square, itself a shift with feedback. -/
def ShiftCoeffs.square (p : ShiftCoeffs) : ShiftCoeffs := (p.2.2.2, p.1 ^^ p.2.2.2, p.2.1, p.2.2.1)

theorem ShiftCoeffs.eval_eval (p : ShiftCoeffs) (x : Lfsr) : p.eval (p.eval x) = p.square.eval x :=
  (lfsrSum_lfsrSum _ 1 x).trans (lfsrSum_two _ _ _ _ x)

/-- The coefficients of the power `2 ^ k` of the shift. -/
def powerCoeffs (k : Nat) : ShiftCoeffs := ShiftCoeffs.square^[k] (true, false, false, false)

theorem iterate_lfsrShift_two_pow (k : Nat) (x : Lfsr) : lfsrShift^[2 ^ k] x = (powerCoeffs k).eval x := by
  induction k generalizing x with
  | zero => exact BitVec.xor_zero.symm
  | succ k ih =>
    rw [Nat.pow_succ, Nat.mul_two, Function.iterate_add_apply, ih, ih, ShiftCoeffs.eval_eval, powerCoeffs, powerCoeffs,
      Function.iterate_succ_apply']

/-- A power of the shift by the binary digits of its exponent. -/
theorem iterate_lfsrShift_sum_two_pow (ks : List Nat) (x : Lfsr) :
    lfsrShift^[(ks.map (2 ^ ·)).sum] x = ks.foldr (fun k y => (powerCoeffs k).eval y) x := by
  induction ks with
  | nil => rfl
  | cons k ks ih =>
    rw [List.map_cons, List.sum_cons, Function.iterate_add_apply, ih, iterate_lfsrShift_two_pow, List.foldr_cons]

/-! ### The period in LFSR mode -/

/-- In LFSR mode every value returns after 32767 shifts: the power `2 ^ 15` of the shift is the shift. -/
theorem isPeriodicPt_lfsrShift (x : Lfsr) : Function.IsPeriodicPt lfsrShift 32767 x := by
  have hpower : lfsrShift^[32767 + 1] x = lfsrShift x :=
    calc lfsrShift^[2 ^ 15] x
      _ = (powerCoeffs 15).eval x := iterate_lfsrShift_two_pow 15 x
      _ = (powerCoeffs 0).eval x := by rw [show powerCoeffs 15 = powerCoeffs 0 by decide]
      _ = lfsrShift x := BitVec.xor_zero
  rw [Function.iterate_succ_apply'] at hpower
  exact noiseShift_injective lfsrModeValue hpower

/-- A period is minimal when none of its quotients by a prime is one. -/
theorem minimalPeriod_eq_of_prime_quotients {α : Type} {f : α → α} {x : α} {n : Nat}
    (h : Function.IsPeriodicPt f n x) (hp : ∀ p, p.Prime → p ∣ n → ¬ Function.IsPeriodicPt f (n / p) x) :
    Function.minimalPeriod f x = n := by
  obtain ⟨d, hd⟩ := h.minimalPeriod_dvd
  by_contra hne
  have hd1 : d ≠ 1 := by
    rintro rfl
    exact hne (hd.trans (Nat.mul_one _)).symm
  obtain ⟨p, hprime, e, he⟩ := Nat.exists_prime_and_dvd hd1
  have hquot : n / p = Function.minimalPeriod f x * e := by
    rw [hd, he, Nat.mul_left_comm, Nat.mul_div_cancel_left _ hprime.pos]
  have hdvd : p ∣ n := by
    rw [hd, he]
    exact (Nat.dvd_mul_right p e).mul_left _
  refine hp p hprime hdvd ?_
  rw [hquot]
  exact (Function.isPeriodicPt_minimalPeriod f x).mul_const e

theorem prime_dvd_32767 {p : Nat} (hp : p.Prime) (h : p ∣ 32767) : p = 7 ∨ p = 31 ∨ p = 151 := by
  have h7 : Nat.Prime 7 := by norm_num
  have h31 : Nat.Prime 31 := by norm_num
  have h151 : Nat.Prime 151 := by norm_num
  rw [show 32767 = 7 * (31 * 151) from rfl, hp.dvd_mul, hp.dvd_mul, Nat.prime_dvd_prime_iff_eq hp h7,
    Nat.prime_dvd_prime_iff_eq hp h31, Nat.prime_dvd_prime_iff_eq hp h151] at h
  exact h

/-- After 32767 divided by each of its primes, the register is not back at the seed. -/
theorem iterate_lfsrShift_quotients :
    lfsrShift^[4681] noiseSeed ≠ noiseSeed ∧ lfsrShift^[1057] noiseSeed ≠ noiseSeed ∧
      lfsrShift^[217] noiseSeed ≠ noiseSeed := by
  have h4681 := iterate_lfsrShift_sum_two_pow [12, 9, 6, 3, 0] noiseSeed
  have h1057 := iterate_lfsrShift_sum_two_pow [10, 5, 0] noiseSeed
  have h217 := iterate_lfsrShift_sum_two_pow [7, 6, 4, 3, 0] noiseSeed
  refine ⟨fun h => ?_, fun h => ?_, fun h => ?_⟩
  · exact absurd (h4681.symm.trans h) (by decide)
  · exact absurd (h1057.symm.trans h) (by decide)
  · exact absurd (h217.symm.trans h) (by decide)

theorem minimalPeriod_lfsrShift_noiseSeed : Function.minimalPeriod lfsrShift noiseSeed = 32767 := by
  obtain ⟨h7, h31, h151⟩ := iterate_lfsrShift_quotients
  refine minimalPeriod_eq_of_prime_quotients (isPeriodicPt_lfsrShift noiseSeed) fun p hp hdvd => ?_
  rcases prime_dvd_32767 hp hdvd with rfl | rfl | rfl
  · exact h7
  · exact h31
  · exact h151

/-- Settles O40: 32767 is the minimal period of the seed. -/
theorem lfsrModeFullPeriod : Obligations.LfsrModeFullPeriod := by
  refine ⟨isPeriodicPt_lfsrShift noiseSeed, fun n hpos hn => ?_⟩
  rw [← minimalPeriod_lfsrShift_noiseSeed] at hn
  exact Function.not_isPeriodicPt_of_pos_of_lt_minimalPeriod hpos.ne' hn

end Sys2Proof.Machine
end
